-- ==== Sys2Proof/Word.lean ====
section
/-! DEFINITION. The word types of the block (spec 00_scope.md R5, R6): commands of 32 bits, register
locations and responses of 16 bits, register addresses of 7 bits, waveform tags of 8 bits. -/

namespace Sys2Proof

/-- One command word, `CMD_W` = 32 (R5, R70). -/
abbrev Command := BitVec 32

/-- One register location, one response word or one sample: `DATA_W` = `SAMPLE_W` = 16 (R5, R50, R78). -/
abbrev Half := BitVec 16

/-- A register address, `ADDR_W` = 7 (R5, R50, R73). -/
abbrev RegAddr := BitVec 7

/-- A waveform tag, `WAVE_W` = 8 (R5, R23). -/
abbrev WaveCode := BitVec 8

/-- The noise generator's state, `SEED_W` = 32 (R5, R30). -/
abbrev Seed := BitVec 32

end Sys2Proof
end

