-- ==== Sys2Proof/Config.lean ====
section
/-! DEFINITION. What the spec leaves open, as constants without a body: the two OPEN parameters of
00_scope.md R5, and the state before the first RESET (70_reset_and_hazards.md R223). Nothing in Lean
can give any of them a value. The parameters R5 fixes are in Machine/Params.lean. -/

namespace Sys2Proof

/-- `SAMPLE_RATE`, the host's choice, in Hz; no rule reads it (R5, R208, 92 D31). Log 7. -/
opaque Config.sampleRate : Nat

/-- `TICK_LATENCY_MAX`; no rule reads it (R5, R232, 92 D31). Log 7. -/
opaque Config.tickLatencyMax : Nat

/-- `WAVE[v]` before the first RESET: any value (R223, 93 U7). Log 5. -/
opaque Config.powerOnWave : Nat → WaveCode

/-- `PHASE[v]` before the first RESET: any value (R223, 93 U7). Log 5. -/
opaque Config.powerOnPhase : Nat → Half

/-- `FREQ[v]` before the first RESET: any value (R223, 93 U7). Log 5. -/
opaque Config.powerOnFreq : Nat → Half

/-- `DUTY[v]` before the first RESET: any value (R223, 93 U7). Log 5. -/
opaque Config.powerOnDuty : Nat → Half

/-- `VOL[v]` before the first RESET: any value (R223, 93 U7). Log 5. -/
opaque Config.powerOnVol : Nat → BitVec 8

/-- `CRUSH[v]` before the first RESET: any value (R223, 93 U7). Log 5. -/
opaque Config.powerOnCrush : Nat → BitVec 4

/-- `SCALED[v]` before the first RESET: any value (R223, 93 U7). Log 5. -/
opaque Config.powerOnScaled : Nat → Half

/-- `SEED` before the first RESET: any value, zero among them (R223, 93 U7). Log 5. -/
opaque Config.powerOnSeed : Seed

/-- `SAMPLE` before the first RESET: any value (R223, 93 U7). Log 5. -/
opaque Config.powerOnSample : Half

end Sys2Proof
end

