-- ==== Sys2Proof/Machine/Params.lean ====
section
/-! DEFINITION. The parameters 00_scope.md R5 fixes that the meanings read. -/

namespace Sys2Proof.Machine

/-- `FREQ_SHIFT`: the phase increment is `FREQ >> 2` (R5, R151). -/
abbrev freqShift : Nat := 2

/-- `MOD_SHIFT` (R5, R171). -/
abbrev modShift : Nat := 4

/-- `MIX_SHIFT` (R5, R175). -/
abbrev mixShift : Nat := 9

/-- `MIX_BIAS` (R5, R175). -/
abbrev mixBias : Int := 128

/-- `NUM_CARRIERS`: voices 0..3 (R5, R22). -/
abbrev numCarriers : Nat := 4

/-- The four LFSR taps, in the order R130 names them (R5). -/
abbrev lfsrTaps : List Nat := [31, 24, 6, 9]

/-- `SEED_RESET` (R5, R39). -/
abbrev seedReset : Seed := 0x00000001#32

/-- Mid-scale silence, both channels at 128: the reset value of `SAMPLE` (R31, R39). -/
abbrev midScale : Half := 0x8080#16

end Sys2Proof.Machine
end

