-- ==== Sys2Proof/Machine/Arith.lean ====
section
/-! DEFINITION. The arithmetic of 00_scope.md R7: mathematical integers, narrowed only where a rule says
so, and the pattern concatenation of 20_memory.md R54. -/

namespace Sys2Proof.Machine

/-- `v >> k = floor(v / 2^k)` (R7). -/
def shr (v : Int) (k : Nat) : Int := v / 2 ^ k

/-- The signed reading of `v mod 2^(w+1)` in `w+1` bits (R7). -/
def signedResidue (w : Nat) (v : Int) : Int :=
  if 2 ^ w ≤ v % 2 ^ (w + 1) then v % 2 ^ (w + 1) - 2 ^ (w + 1) else v % 2 ^ (w + 1)

/-- `s8(v)` (R7). -/
def s8 (v : Int) : Int := signedResidue 7 v

/-- `s16(v)` (R7). -/
def s16 (v : Int) : Int := signedResidue 15 v

/-- `s32(v)` (R121). -/
def s32 (v : Int) : Int := signedResidue 31 v

/-- `u16(v)`, the residue as a 16-bit field (R7). -/
def u16 (v : Int) : Half := BitVec.ofInt 16 v

/-- `sext_8(v)`: the 8-bit two's-complement pattern (R7). -/
def sext8 (v : Int) : BitVec 8 := BitVec.ofInt 8 v

/-- `sext_16(v)`: the 16-bit two's-complement pattern (R7). -/
def sext16 (v : Int) : Half := BitVec.ofInt 16 v

/-- A field read as the non-negative integer it holds (R6). -/
def unsigned {w : Nat} (b : BitVec w) : Int := (b.toNat : Int)

/-- `zext_16` of a narrow field (R7, R53). -/
def zext16 {w : Nat} (b : BitVec w) : Half := b.setWidth 16

/-- `clamp(v, lo, hi) = min(hi, max(lo, v))` (R7). -/
def clamp (v lo hi : Int) : Int := min hi (max lo v)

end Sys2Proof.Machine
end

