-- ==== Sys2Proof/Machine/Eight.lean ====
section
/-! DEFINITION. Eight like things indexed 0..7 (10_state.md R21: "always exactly eight voice register
sets, indexed 0..7"), as plain data. -/

namespace Sys2Proof.Machine

/-- One value per voice. -/
structure Eight (α : Type) where
  v0 : α
  v1 : α
  v2 : α
  v3 : α
  v4 : α
  v5 : α
  v6 : α
  v7 : α
  deriving DecidableEq, Repr

/-- The value of voice `v`. -/
def Eight.get {α : Type} (e : Eight α) (v : Fin 8) : α :=
  match v with
  | 0 => e.v0
  | 1 => e.v1
  | 2 => e.v2
  | 3 => e.v3
  | 4 => e.v4
  | 5 => e.v5
  | 6 => e.v6
  | 7 => e.v7

/-- The eight values a function gives. -/
def Eight.ofFn {α : Type} (f : Fin 8 → α) : Eight α :=
  ⟨f 0, f 1, f 2, f 3, f 4, f 5, f 6, f 7⟩

/-- The same value for every voice. -/
def Eight.fill {α : Type} (a : α) : Eight α := Eight.ofFn fun _ => a

/-- Replace the value of voice `v`. -/
def Eight.set {α : Type} (e : Eight α) (v : Fin 8) (a : α) : Eight α :=
  Eight.ofFn fun u => if u = v then a else e.get u

/-- Apply a function to the value of every voice. -/
def Eight.map {α β : Type} (e : Eight α) (f : Fin 8 → α → β) : Eight β :=
  Eight.ofFn fun v => f v (e.get v)

end Sys2Proof.Machine
end

