-- ==== Sys2Proof/Machine/State.lean ====
section
/-! DEFINITION. The state of the block (10_state.md R20, R38), the two sides of its command port, the
reasons a step can stop, the state after RESET (R39) and the state before the first one (R223). -/

namespace Sys2Proof.Machine

/-- One voice register set (R20, R23 to R29). -/
structure Voice where
  /-- `WAVE[v]`, the waveform tag (R23). -/
  wave : WaveCode
  /-- `PHASE[v]` (R24). -/
  phase : Half
  /-- `FREQ[v]` (R25). -/
  freq : Half
  /-- `DUTY[v]` (R26). -/
  duty : Half
  /-- `VOL[v]`, unsigned (R27, 90 C1). -/
  vol : BitVec 8
  /-- `CRUSH[v]` (R28). -/
  crush : BitVec 4
  /-- `SCALED[v]`, two's complement, read-only to the host (R29). -/
  scaled : Half
  deriving DecidableEq, Repr

/-- The values one TICK forms on its way (R38, R103): exact integers (R7). -/
structure Locals where
  /-- The noise value of this TICK (R132). -/
  nz : Int
  /-- The raw values (R140). -/
  raw : Eight Int
  /-- The crushed values (R149). -/
  cr : Eight Int
  /-- The scaled values (R150). -/
  sc : Eight Int
  deriving DecidableEq, Repr

/-- Where the core stands. Between two commands nothing is in flight (R38). A TICK taken from the
port runs as one step; the two other cases spell out the stages R103 gives it, in which the tags of
format WAVE8 are decoded (R81). Log 3. -/
inductive Tick where
  /-- Between two commands. -/
  | idle
  /-- Inside a TICK, stage 2: `WAVE[v]` is decoded next. -/
  | evaluate (v : Fin 8) (l : Locals)
  /-- Inside a TICK: stages 3 to 6 come next. -/
  | finish (l : Locals)
  deriving DecidableEq, Repr

/-- What reaches the block from outside, in the order the host sends it (R9, R64, R220). Log 1. -/
inductive Event where
  /-- A command word (R70). -/
  | command (w : Command)
  /-- The RESET input, taken between two commands (R220, R221). -/
  | reset
  /-- Two agents drive the one port at once: outside the block, no behaviour (R210, R231). Log 6. -/
  | collision (a b : Command)
  deriving DecidableEq, Repr

/-- The block raises no exception (R200), so there is no fault: a closed type with no constructor. -/
inductive Fault where
  deriving DecidableEq, Repr

/-- Why a step has no meaning. -/
inductive Refusal where
  /-- An instruction without a meaning yet; raised by no arm of exec. Safe. -/
  | notModelled (mnemonic : String)
  /-- Raised by step on `Event.collision`: "A model has no behaviour for it and refuses any program
  that relies on it" (R231, 93 U1). Safe. Log 6. -/
  | concurrentAccess
  deriving DecidableEq, Repr

/-- The whole machine: the block's state (R20), the stage of a TICK (R38) and the command port. -/
structure State where
  /-- The eight voice register sets. -/
  voices : Eight Voice
  /-- `SEED` (R30). -/
  seed : Seed
  /-- `SAMPLE`, read-only to the host (R31). -/
  sample : Half
  /-- The stage of the TICK in progress, if any (R38, R103). -/
  tick : Tick
  /-- What the host has sent and the core has not taken, oldest first (R64). Log 1. -/
  port : List Event
  /-- The responses given so far, oldest first: one per command, in command order (R78). Log 2. -/
  out : List Half
  deriving DecidableEq, Repr

/-- A voice after RESET: every field 0 (R39). -/
def Voice.reset : Voice := ⟨0, 0, 0, 0, 0, 0, 0⟩

/-- The machine after RESET (R39, R220): every field at the value R39 gives, the core between two
commands, no command sent and no response given yet. -/
def State.reset : State :=
  { voices := Eight.fill Voice.reset
    seed := seedReset
    sample := midScale
    tick := .idle
    port := []
    out := [] }

/-- A voice before the first RESET: any values (R223, 93 U7). Log 5. -/
def Voice.powerOn (v : Fin 8) : Voice :=
  { wave := Config.powerOnWave v
    phase := Config.powerOnPhase v
    freq := Config.powerOnFreq v
    duty := Config.powerOnDuty v
    vol := Config.powerOnVol v
    crush := Config.powerOnCrush v
    scaled := Config.powerOnScaled v }

/-- The machine before the first RESET, with what the host has sent: every register any value of its
width (R223, 93 U7). Log 5. -/
def State.powerOn (sent : List Event) : State :=
  { voices := Eight.ofFn Voice.powerOn
    seed := Config.powerOnSeed
    sample := Config.powerOnSample
    tick := .idle
    port := sent
    out := [] }

end Sys2Proof.Machine
end

