-- ==== Sys2Proof/Machine/Operands.lean ====
section
/-! DEFINITION. The one operand that needs decoding, the register address (20_memory.md R51). -/

namespace Sys2Proof.Machine

/-- What a register address selects (R51). -/
inductive Loc where
  | wave (v : Fin 8)
  | phase (v : Fin 8)
  | freq (v : Fin 8)
  | duty (v : Fin 8)
  | vol (v : Fin 8)
  | crush (v : Fin 8)
  | scaled (v : Fin 8)
  | seedLo
  | seedHi
  | sample
  | reserved
  deriving DecidableEq, Repr

/-- `v = a[5:3]` (R51). -/
def addrVoice (a : RegAddr) : Fin 8 := ⟨(a.extractLsb' 3 3).toNat, (a.extractLsb' 3 3).isLt⟩

/-- `f = a[2:0]` (R51). -/
def addrField3 (a : RegAddr) : Nat := (a.extractLsb' 0 3).toNat

/-- The field `f` of voice `v` (R51). -/
def voiceLoc (v : Fin 8) (f : Nat) : Loc :=
  match f with
  | 0 => .wave v
  | 1 => .phase v
  | 2 => .freq v
  | 3 => .duty v
  | 4 => .vol v
  | 5 => .crush v
  | 6 => .scaled v
  | _ => .reserved

/-- The global block, 0x40..0x7F (R51). -/
def globalLoc (a : RegAddr) : Loc :=
  if a = 0x40 then .seedLo
  else if a = 0x41 then .seedHi
  else if a = 0x42 then .sample
  else .reserved

/-- `decode(a)` (R51): every one of the 128 addresses has its location. -/
def decodeAddr (a : RegAddr) : Loc :=
  if a.getLsbD 6 then globalLoc a else voiceLoc (addrVoice a) (addrField3 a)

end Sys2Proof.Machine
end

