-- ==== Sys2Proof/Machine/Ops.lean ====
section
/-! DEFINITION. The named operations on the state: reading and writing a register location
(20_memory.md R53, R54), answering the host (30_encoding.md R78), RESET (70_reset_and_hazards.md R220) and
the bookkeeping of a TICK in progress (40_commands.md R103). There is no exception to take and none to
return from (60_exceptions.md R200, R205). -/

namespace Sys2Proof.Machine

/-- `resp <- r`: the host receives one more response (R8, R78). Log 2. -/
def State.respond (s : State) (r : Half) : State := { s with out := s.out ++ [r] }

/-- Replace the register set of voice `v`. -/
def State.setVoice (s : State) (v : Fin 8) (x : Voice) : State :=
  { s with voices := s.voices.set v x }

/-- Write `SEED`. -/
def State.setSeed (s : State) (x : Seed) : State := { s with seed := x }

/-- Move to a stage of a TICK, or out of it. -/
def State.setTick (s : State) (t : Tick) : State := { s with tick := t }

/-- Replace what stands at the command port. -/
def State.setPort (s : State) (p : List Event) : State := { s with port := p }

/-- The register set of voice `v`. -/
def State.voice (s : State) (v : Fin 8) : Voice := s.voices.get v

/-- `SEED[15:0]` (R58). -/
def seedLow (x : Seed) : Half := x.extractLsb' 0 16

/-- `SEED[31:16]` (R58). -/
def seedHigh (x : Seed) : Half := x.extractLsb' 16 16

/-- `MemRead(a, 2)` (R53): a 16-bit value, and no state changes. -/
def memRead (s : State) (a : RegAddr) : Half :=
  match decodeAddr a with
  | .wave v => zext16 (s.voice v).wave
  | .phase v => (s.voice v).phase
  | .freq v => (s.voice v).freq
  | .duty v => (s.voice v).duty
  | .vol v => zext16 (s.voice v).vol
  | .crush v => zext16 (s.voice v).crush
  | .scaled v => (s.voice v).scaled
  | .seedLo => seedLow s.seed
  | .seedHi => seedHigh s.seed
  | .sample => s.sample
  | .reserved => 0x0000

/-- `MemWrite(a, 2, d)` (R54): at most the one field the address selects. -/
def memWrite (s : State) (a : RegAddr) (d : Half) : State :=
  match decodeAddr a with
  | .wave v => s.setVoice v { s.voice v with wave := d.extractLsb' 0 8 }
  | .phase v => s.setVoice v { s.voice v with phase := d }
  | .freq v => s.setVoice v { s.voice v with freq := d }
  | .duty v => s.setVoice v { s.voice v with duty := d }
  | .vol v => s.setVoice v { s.voice v with vol := d.extractLsb' 0 8 }
  | .crush v => s.setVoice v { s.voice v with crush := d.extractLsb' 0 4 }
  | .scaled _ => s
  | .seedLo => s.setSeed (seedHigh s.seed ++ d)
  | .seedHi => s.setSeed (d ++ seedLow s.seed)
  | .sample => s
  | .reserved => s

/-- RESET: every state element of R20 takes its reset value, and nothing of a command is in flight
(R220, R222). It returns no response; what the host has sent or received is the host's. Log 11. -/
def State.takeReset (s : State) : State := { State.reset with port := s.port, out := s.out }

/-- The values a TICK starts stage 2 with: the noise value, and nothing evaluated yet (R103). -/
def Locals.start (nz : Int) : Locals := ⟨nz, Eight.fill 0, Eight.fill 0, Eight.fill 0⟩

/-- `raw[v] <- f(VOICE[v], nz)` for the voice under evaluation (R103 stage 2, R140). A waveform case
"has no side effects" (R140): where no TICK asks for its value, nothing changes. Log 4. -/
def State.setRaw (s : State) (f : Voice → Int → Int) : State :=
  match s.tick with
  | .evaluate v l => s.setTick (.evaluate v { l with raw := l.raw.set v (f (s.voice v) l.nz) })
  | .idle => s
  | .finish _ => s

/-- Apply a function to the state of an outcome that has one. -/
def mapNext (f : State → State) (o : Host.Outcome State Fault Refusal) :
    Host.Outcome State Fault Refusal :=
  match o with
  | .next s => .next (f s)
  | .fault r => .fault r
  | .refused r => .refused r

end Sys2Proof.Machine
end

