-- ==== Sys2Proof/Machine/Commands.lean ====
section
/-! DEFINITION. The host commands NOP, RD and WR (40_commands.md R100, R101, R102). -/

namespace Sys2Proof.Machine

/-- NOP: `resp <- 0x0000` (R100). -/
def execNop (s : State) : Host.Outcome State Fault Refusal := .next (s.respond 0x0000)

/-- RD: `resp <- MemRead(ADDR, 2)` (R101). -/
def execRd (addr : RegAddr) (s : State) : Host.Outcome State Fault Refusal :=
  .next (s.respond (memRead s addr))

/-- WR: `MemWrite(ADDR, 2, DATA); resp <- 0x0000` (R102). -/
def execWr (addr : RegAddr) (data : Half) (s : State) : Host.Outcome State Fault Refusal :=
  .next ((memWrite s addr data).respond 0x0000)

end Sys2Proof.Machine
end

