-- ==== Sys2Proof/Syntax.lean ====
section
/-! DEFINITION. The instructions of spec/opcode_table.json: the four host commands (format CMD32,
30_encoding.md R70, R75) and the eight waveform cases (format WAVE8, R81), and the two kinds of
encoded word they are read from. -/

namespace Sys2Proof

/-- One constructor per mnemonic of the opcode table. The six rows of WAVE.SILENCE are one
constructor that carries the tag, since every tag 7..255 stays readable in `WAVE[v]` (R101). -/
inductive Instr where
  /-- NOP (R100). -/
  | nop
  /-- RD ADDR (R101). -/
  | rd (addr : RegAddr)
  /-- WR ADDR, DATA (R102). -/
  | wr (addr : RegAddr) (data : Half)
  /-- TICK (R103). -/
  | tick
  /-- WAVE.TRI, tag 0 (R141). -/
  | waveTri
  /-- WAVE.SAW, tag 1 (R142). -/
  | waveSaw
  /-- WAVE.PULSE, tag 2 (R143). -/
  | wavePulse
  /-- WAVE.NOISE, tag 3 (R144). -/
  | waveNoise
  /-- WAVE.SINE, tag 4 (R145). -/
  | waveSine
  /-- WAVE.ABSSINE, tag 5 (R146). -/
  | waveAbsSine
  /-- WAVE.QSINE, tag 6 (R147). -/
  | waveQSine
  /-- WAVE.SILENCE, tags 7..255 (R148). -/
  | waveSilence (code : WaveCode)
  deriving DecidableEq, Repr

/-- The two formats of the opcode table. -/
inductive Format where
  /-- A 32-bit command word from the host (R70, R80). -/
  | cmd32
  /-- The 8-bit field `WAVE[v]`, "decoded at each TICK; not a command word" (R81). -/
  | wave8
  deriving DecidableEq, Repr

/-- An encoded word, of one of the two formats. -/
inductive CodeWord where
  /-- A command word (R70). -/
  | cmd32 (w : Command)
  /-- A waveform tag (R81). -/
  | wave8 (c : WaveCode)
  deriving DecidableEq, Repr

end Sys2Proof
end

