-- ==== Sys2Proof/WellFormed.lean ====
section
/-! DEFINITION. Which terms of Instr stand for words of the block. Register addresses and data of every
value are legal (30_encoding.md R79); the one check is the tag of Silence, 7..255 (R81). -/

namespace Sys2Proof

/-- The Silence case holds the tags 7..255 only: 0..6 are the seven other waveforms (R81). -/
def Instr.wf : Instr → Bool
  | .waveSilence code => decide (7 ≤ code.toNat)
  | .nop | .rd _ | .wr _ _ | .tick => true
  | .waveTri | .waveSaw | .wavePulse | .waveNoise | .waveSine | .waveAbsSine | .waveQSine => true

end Sys2Proof
end

