-- ==== Sys2Proof/Decode.lean ====
section
/-! DEFINITION. Decoding and encoding (30_encoding.md). Decoding is total: every one of the 2^32 command
words and every one of the 256 tags has its instruction, and no word is refused (R77, R79, R81). -/

namespace Sys2Proof

/-- `OP = cmd[31:30]` (R71). -/
def opField (w : Command) : BitVec 2 := w.extractLsb' 30 2

/-- `RSV = cmd[29:23]`, ignored (R72). -/
def rsvField (w : Command) : BitVec 7 := w.extractLsb' 23 7

/-- `ADDR = cmd[22:16]` (R73). -/
def addrField (w : Command) : RegAddr := w.extractLsb' 16 7

/-- `DATA = cmd[15:0]` (R74). -/
def dataField (w : Command) : Half := w.extractLsb' 0 16

/-- The command a word selects, by OP alone (R71, R75). -/
def decodeCommand (w : Command) : Instr :=
  match (opField w).toNat with
  | 0 => .nop
  | 1 => .rd (addrField w)
  | 2 => .wr (addrField w) (dataField w)
  | _ => .tick

/-- The waveform case a tag selects (R81). -/
def decodeWave (c : WaveCode) : Instr :=
  match c.toNat with
  | 0 => .waveTri
  | 1 => .waveSaw
  | 2 => .wavePulse
  | 3 => .waveNoise
  | 4 => .waveSine
  | 5 => .waveAbsSine
  | 6 => .waveQSine
  | _ => .waveSilence c

/-- The instruction of an encoded word. -/
def decode : CodeWord → Instr
  | .cmd32 w => decodeCommand w
  | .wave8 c => decodeWave c

/-- A command word from its four fields (R70). -/
def commandWord (op : BitVec 2) (rsv : BitVec 7) (addr : RegAddr) (data : Half) : Command :=
  ((op ++ rsv) ++ addr) ++ data

/-- The canonical word of an instruction: RSV and every unused field zero (R72, R76), or the tag of a
waveform case (R81). -/
def encode : Instr → CodeWord
  | .nop => .cmd32 (commandWord 0 0 0 0)
  | .rd addr => .cmd32 (commandWord 1 0 addr 0)
  | .wr addr data => .cmd32 (commandWord 2 0 addr data)
  | .tick => .cmd32 (commandWord 3 0 0 0)
  | .waveTri => .wave8 0
  | .waveSaw => .wave8 1
  | .wavePulse => .wave8 2
  | .waveNoise => .wave8 3
  | .waveSine => .wave8 4
  | .waveAbsSine => .wave8 5
  | .waveQSine => .wave8 6
  | .waveSilence code => .wave8 code

/-- The format an instruction is encoded in (opcode_table.json). -/
def Instr.format : Instr → Format
  | .nop | .rd _ | .wr _ _ | .tick => .cmd32
  | .waveTri | .waveSaw | .wavePulse | .waveNoise => .wave8
  | .waveSine | .waveAbsSine | .waveQSine | .waveSilence _ => .wave8

/-- An instruction's mnemonic, as opcode_table.json spells it. -/
def Instr.mnemonic : Instr → String
  | .nop => "NOP"
  | .rd _ => "RD"
  | .wr _ _ => "WR"
  | .tick => "TICK"
  | .waveTri => "WAVE.TRI"
  | .waveSaw => "WAVE.SAW"
  | .wavePulse => "WAVE.PULSE"
  | .waveNoise => "WAVE.NOISE"
  | .waveSine => "WAVE.SINE"
  | .waveAbsSine => "WAVE.ABSSINE"
  | .waveQSine => "WAVE.QSINE"
  | .waveSilence _ => "WAVE.SILENCE"

/-- One row of opcode_table.json: the words whose bits under `mask` are those of `value`. -/
structure OpcodeRow where
  mnemonic : String
  format : Format
  value : Nat
  mask : Nat
  deriving DecidableEq, Repr

/-- The four command rows (R75). -/
def commandRows : List OpcodeRow :=
  [ ⟨"NOP", .cmd32, 0x00000000, 0xC0000000⟩,
    ⟨"RD", .cmd32, 0x40000000, 0xC0000000⟩,
    ⟨"WR", .cmd32, 0x80000000, 0xC0000000⟩,
    ⟨"TICK", .cmd32, 0xC0000000, 0xC0000000⟩ ]

/-- The thirteen tag rows (R81): seven waveforms and the six that cover 7..255. -/
def waveRows : List OpcodeRow :=
  [ ⟨"WAVE.TRI", .wave8, 0x00, 0xFF⟩,
    ⟨"WAVE.SAW", .wave8, 0x01, 0xFF⟩,
    ⟨"WAVE.PULSE", .wave8, 0x02, 0xFF⟩,
    ⟨"WAVE.NOISE", .wave8, 0x03, 0xFF⟩,
    ⟨"WAVE.SINE", .wave8, 0x04, 0xFF⟩,
    ⟨"WAVE.ABSSINE", .wave8, 0x05, 0xFF⟩,
    ⟨"WAVE.QSINE", .wave8, 0x06, 0xFF⟩,
    ⟨"WAVE.SILENCE", .wave8, 0x07, 0xFF⟩,
    ⟨"WAVE.SILENCE", .wave8, 0x08, 0xF8⟩,
    ⟨"WAVE.SILENCE", .wave8, 0x10, 0xF0⟩,
    ⟨"WAVE.SILENCE", .wave8, 0x20, 0xE0⟩,
    ⟨"WAVE.SILENCE", .wave8, 0x40, 0xC0⟩,
    ⟨"WAVE.SILENCE", .wave8, 0x80, 0x80⟩ ]

/-- The opcode table, row by row in its own order. -/
def opcodeRows : List OpcodeRow := commandRows ++ waveRows

/-- Does the word match the row's bits, in the row's format? -/
def OpcodeRow.covers (r : OpcodeRow) : CodeWord → Bool
  | .cmd32 w => decide (r.format = .cmd32) && decide (w.toNat &&& r.mask = r.value)
  | .wave8 c => decide (r.format = .wave8) && decide (c.toNat &&& r.mask = r.value)

/-- The encoded word of a table row's number: up to 8 bits a tag, up to 32 bits a command, nothing
longer (log 12). -/
def tableWord (nbits w : Nat) : Option CodeWord :=
  if nbits ≤ 8 then some (.wave8 (BitVec.ofNat 8 w))
  else if nbits ≤ 32 then some (.cmd32 (BitVec.ofNat 32 w))
  else none

/-- The instruction the decoder reads from a table row's bits. -/
def decodeTableWord (nbits w : Nat) : Option Instr := (tableWord nbits w).map decode

end Sys2Proof
end

