-- ==== Sys2Proof/Machine/Noise.lean ====
section
/-! DEFINITION. The noise generator (42_noise.md). -/

namespace Sys2Proof.Machine

/-- The bit injected at bit 0: the XOR of the taps of the value before the shift (R130). -/
def lfsrFeedback (s : Seed) : Bool :=
  lfsrTaps.foldl (fun b i => b ^^ s.getLsbD i) false

/-- `lfsr_step(s)` (R130). -/
def lfsrStep (s : Seed) : Seed := (s <<< 1) ||| (BitVec.ofBool (lfsrFeedback s)).setWidth 32

/-- `noise_value(s) = s[7:0] - 128` (R132). -/
def noiseValue (s : Seed) : Int := unsigned (s.extractLsb' 0 8) - 128

end Sys2Proof.Machine
end

