-- ==== Sys2Proof/Machine/Sine.lean ====
section
/-! DEFINITION. The fast sine approximator (41_sine.md). -/

namespace Sys2Proof.Machine

/-- `n`: a quarter circle is 2^14 phase units (R123). -/
abbrev sineN : Nat := 14

/-- `A`: output in units of 1/128 (R123). -/
abbrev sineA : Nat := 7

/-- `p`, the Q-position of the parenthesis (R123). -/
abbrev sineP : Nat := 15

/-- `r = 2n - p` = 13 (R123). -/
abbrev sineR : Nat := 2 * sineN - sineP

/-- `s = n + p + 1 - A` = 23 (R123). -/
abbrev sineS : Nat := sineN + sineP + 1 - sineA

/-- Quadrant reduction into -16384..16384 (R121). -/
def reduce (x : Int) : Int :=
  if x < 16384 then x
  else if x < 49152 then 32768 - x
  else x - 65536

/-- The source's form of the same reduction, with a 32-bit signed word and its sign trick (R121). -/
def reduceWord (x : Half) : Int :=
  let w : BitVec 32 := x.setWidth 32 <<< 16
  let w' : BitVec 32 := if (w ^^^ (w <<< 1)).msb then BitVec.ofInt 32 (-(2 ^ 31)) - w else w
  (w'.sshiftRight 16).toInt

/-- `t = (y * y) >> 13` (R122). -/
def polyT (y : Int) : Int := shr (y * y) sineR

/-- `u = (3 << 15) - t` (R122). -/
def polyU (y : Int) : Int := 3 * 2 ^ sineP - polyT y

/-- The parabola, before saturation (R122). -/
def poly (y : Int) : Int := shr (y * polyU y) sineS

/-- `quicksin(x)`, saturated to a signed byte (R124). -/
def quicksin (x : Half) : Int := clamp (poly (reduce (unsigned x))) (-128) 127

end Sys2Proof.Machine
end

