-- ==== Sys2Proof/Machine/Waveforms.lean ====
section
/-! DEFINITION. The eight waveform cases (43_voice.md R140 to R148). Each has a raw value, a function of
phase, duty and noise value alone, and a meaning: inside a TICK it gives the voice under evaluation
that raw value (40_commands.md R103, stage 2). Log 3, log 4. -/

namespace Sys2Proof.Machine

/-- Triangle (R141). -/
def triangle (p : Half) : Int :=
  if unsigned p < 32768 then shr (unsigned p) 7 - 128
  else 127 - shr (unsigned p - 32768) 7

/-- Sawtooth (R142). -/
def sawtooth (p : Half) : Int := shr (unsigned p) 8 - 128

/-- Pulse (R143). -/
def pulse (p d : Half) : Int := if unsigned p ≤ unsigned d then 127 else -128

/-- Noise (R144). -/
def noise (nz : Int) : Int := nz

/-- Sine: `quicksin` inside the sine window, 0 outside it (R145). -/
def sine (p d : Half) : Int :=
  if unsigned p < unsigned d ∨ 65535 - unsigned d < unsigned p then quicksin p else 0

/-- AbsSine: the sine at the phase, or at the mirrored phase 65535 - p, the NOT of its bits (R146). -/
def absSine (p d : Half) : Int :=
  if unsigned p < unsigned d then quicksin p else quicksin (~~~p)

/-- QuarterSine: 0 where bit 14 of the phase is set (R147, 90 C2). -/
def quarterSine (p : Half) : Int := if p &&& 0x4000 ≠ 0 then 0 else quicksin p

/-- Silence (R148). -/
def silence : Int := 0

/-- `wave(code, p, d, nz)`: the case is selected by the tag (R140, R81). -/
def wave (code : WaveCode) (p d : Half) (nz : Int) : Int :=
  match decodeWave code with
  | .waveTri => triangle p
  | .waveSaw => sawtooth p
  | .wavePulse => pulse p d
  | .waveNoise => noise nz
  | .waveSine => sine p d
  | .waveAbsSine => absSine p d
  | .waveQSine => quarterSine p
  | .waveSilence _ => silence
  | .nop | .rd _ | .wr _ _ | .tick => silence

/-- WAVE.TRI (R141). -/
def execWaveTri (s : State) : Host.Outcome State Fault Refusal :=
  .next (s.setRaw fun x _ => triangle x.phase)

/-- WAVE.SAW (R142). -/
def execWaveSaw (s : State) : Host.Outcome State Fault Refusal :=
  .next (s.setRaw fun x _ => sawtooth x.phase)

/-- WAVE.PULSE (R143). -/
def execWavePulse (s : State) : Host.Outcome State Fault Refusal :=
  .next (s.setRaw fun x _ => pulse x.phase x.duty)

/-- WAVE.NOISE (R144). -/
def execWaveNoise (s : State) : Host.Outcome State Fault Refusal :=
  .next (s.setRaw fun _ nz => noise nz)

/-- WAVE.SINE (R145). -/
def execWaveSine (s : State) : Host.Outcome State Fault Refusal :=
  .next (s.setRaw fun x _ => sine x.phase x.duty)

/-- WAVE.ABSSINE (R146). -/
def execWaveAbsSine (s : State) : Host.Outcome State Fault Refusal :=
  .next (s.setRaw fun x _ => absSine x.phase x.duty)

/-- WAVE.QSINE (R147). -/
def execWaveQSine (s : State) : Host.Outcome State Fault Refusal :=
  .next (s.setRaw fun x _ => quarterSine x.phase)

/-- WAVE.SILENCE, the same for every tag 7..255 (R148). -/
def execWaveSilence (_code : WaveCode) (s : State) : Host.Outcome State Fault Refusal :=
  .next (s.setRaw fun _ _ => silence)

end Sys2Proof.Machine
end

