-- ==== Sys2Proof/Machine/Mix.lean ====
section
/-! DEFINITION. What a TICK does with a raw value and with the scaled values: bit-crush, volume, phase
advance (43_voice.md R149 to R151), phase modulation and mixdown (44_modulation_mix.md). -/

namespace Sys2Proof.Machine

/-- `m = 2^min(k, 8) - 1`, the low bits that a depth forces to 1 (R149). -/
def crushMask (k : BitVec 4) : BitVec 8 := BitVec.ofNat 8 (2 ^ min k.toNat 8 - 1)

/-- `crush(raw, k)` (R149). -/
def crush (raw : Int) (k : BitVec 4) : Int :=
  if k = 0 then raw else s8 (unsigned (sext8 raw ||| crushMask k))

/-- `sc = cr * VOL`, exact (R150). -/
def scale (cr : Int) (vol : BitVec 8) : Int := cr * unsigned vol

/-- The phase moved by `delta`, modulo 65536 (R24, R151, R171). -/
def Voice.movePhase (x : Voice) (delta : Int) : Voice :=
  { x with phase := u16 (unsigned x.phase + delta) }

/-- The phase increment of a voice, `FREQ >> 2` (R151). -/
def Voice.increment (x : Voice) : Int := shr (unsigned x.freq) freqShift

/-- Voices 0..3 are carriers (R22). -/
def isCarrier (v : Fin 8) : Bool := decide (v.val < numCarriers)

/-- The modulator of a carrier: "voice i's modulator is i+4" (R22, R170). -/
def modulatorOf (c : Fin 8) : Fin 8 := c + 4

/-- What modulation adds to the phase of voice `v`: `sc[v+4] >> 4` for a carrier, nothing for a
modulator (R171, R172). -/
def modulation (sc : Eight Int) (v : Fin 8) : Int :=
  if isCarrier v then shr (sc.get (modulatorOf v)) modShift else 0

/-- Stage 3 of TICK (R171). -/
def modulateStage (sc : Eight Int) (vs : Eight Voice) : Eight Voice :=
  vs.map fun v x => if isCarrier v then x.movePhase (modulation sc v) else x

/-- Stage 4 of TICK (R151, R153). -/
def advanceStage (vs : Eight Voice) : Eight Voice :=
  vs.map fun _ x => x.movePhase x.increment

/-- A channel's byte from its exact sum (R175). -/
def channel (sum : Int) : Int := shr sum mixShift + mixBias

/-- The left byte, from voices 0 and 2 (R173, R175). -/
def leftByte (sc : Eight Int) : Int := channel (sc.v0 + sc.v2)

/-- The right byte, from voices 1 and 3 (R174, R175). -/
def rightByte (sc : Eight Int) : Int := channel (sc.v1 + sc.v3)

/-- Stage 5 of TICK: left in the low byte, right in the high byte (R59, R176). -/
def mixSample (sc : Eight Int) : Half := u16 (rightByte sc * 256 + leftByte sc)

/-- The `SCALED` latches of stage 6 (R152). -/
def latchStage (sc : Eight Int) (vs : Eight Voice) : Eight Voice :=
  vs.map fun v x => { x with scaled := sext16 (sc.get v) }

end Sys2Proof.Machine
end

