-- ==== Sys2Proof/Machine/Tick.lean ====
section
/-! DEFINITION. The command TICK (40_commands.md R103 to R107), and its stages one by one, for the tags
that are decoded inside it. Log 3. -/

namespace Sys2Proof.Machine

/-- The raw value of a voice in a TICK (R103 stage 2, R140). -/
def rawOf (x : Voice) (nz : Int) : Int := wave x.wave x.phase x.duty nz

/-- The crushed value of a voice in a TICK (R103 stage 2, R149). -/
def crushedOf (x : Voice) (nz : Int) : Int := crush (rawOf x nz) x.crush

/-- The scaled value of a voice in a TICK (R103 stage 2, R150). -/
def scaledOf (x : Voice) (nz : Int) : Int := scale (crushedOf x nz) x.vol

/-- Stage 1: the noise generator steps once, unconditionally, and stage 2 starts (R103, R131). -/
def beginTick (s : State) : State :=
  { s with
    seed := lfsrStep s.seed
    tick := .evaluate 0 (Locals.start (noiseValue (lfsrStep s.seed))) }

/-- The whole of stage 2: every voice from its phase at the start of the TICK (R103, R104). -/
def evaluateAll (vs : Eight Voice) (nz : Int) : Locals :=
  { nz := nz
    raw := vs.map fun _ x => rawOf x nz
    cr := vs.map fun _ x => crushedOf x nz
    sc := vs.map fun _ x => scaledOf x nz }

/-- Stages 3 to 6: modulation, phase advance, mixdown, latches and response (R103). The values local
to the TICK end with it (R38). -/
def finishTick (l : Locals) (s : State) : State :=
  State.respond
    { s with
      voices := latchStage l.sc (advanceStage (modulateStage l.sc s.voices))
      sample := mixSample l.sc
      tick := .idle }
    (mixSample l.sc)

/-- TICK: generate one stereo sample (R103). -/
def execTick (s : State) : Host.Outcome State Fault Refusal :=
  .next (finishTick (evaluateAll s.voices (noiseValue (lfsrStep s.seed)))
    (s.setSeed (lfsrStep s.seed)))

/-- Where stage 2 goes after voice `v`: to the next voice, or on to stage 3 (R103). -/
def Tick.after (v : Fin 8) (l : Locals) : Tick :=
  if h : v.val + 1 < 8 then .evaluate ⟨v.val + 1, h⟩ l else .finish l

/-- The rest of stage 2 for voice `v`, once its waveform case has given `raw[v]`: `cr[v]` and `sc[v]`
(R103, R149, R150). -/
def closeVoice (v : Fin 8) (x : Voice) (l : Locals) : Locals :=
  { l with
    cr := l.cr.set v (crush (l.raw.get v) x.crush)
    sc := l.sc.set v (scale (crush (l.raw.get v) x.crush) x.vol) }

/-- What follows the instruction inside a step: after a waveform case the voice is closed and stage 2
moves on; after a command there is nothing left to do (R38, R103). -/
def afterInstr (s : State) : State :=
  match s.tick with
  | .evaluate v l => s.setTick (Tick.after v (closeVoice v (s.voice v) l))
  | .idle => s
  | .finish _ => s

end Sys2Proof.Machine
end

