-- ==== Sys2Proof/Machine/Dispatch.lean ====
section
/-! DEFINITION. One arm per instruction of the opcode table, each a direct call of its meaning. -/

namespace Sys2Proof.Machine

def exec (i : Instr) (s : State) : Host.Outcome State Fault Refusal :=
  match i with
  | .nop => Sys2Proof.Machine.execNop s
  | .rd addr => Sys2Proof.Machine.execRd addr s
  | .wr addr data => Sys2Proof.Machine.execWr addr data s
  | .tick => Sys2Proof.Machine.execTick s
  | .waveTri => Sys2Proof.Machine.execWaveTri s
  | .waveSaw => Sys2Proof.Machine.execWaveSaw s
  | .wavePulse => Sys2Proof.Machine.execWavePulse s
  | .waveNoise => Sys2Proof.Machine.execWaveNoise s
  | .waveSine => Sys2Proof.Machine.execWaveSine s
  | .waveAbsSine => Sys2Proof.Machine.execWaveAbsSine s
  | .waveQSine => Sys2Proof.Machine.execWaveQSine s
  | .waveSilence code => Sys2Proof.Machine.execWaveSilence code s

end Sys2Proof.Machine
end

