-- ==== Sys2Proof/Machine/Fetch.lean ====
section
/-! DEFINITION. Where the next instruction comes from (10_state.md R32, 20_memory.md R64, 30_encoding.md
R81), and what a step does where there is none. -/

namespace Sys2Proof.Machine

/-- The next encoded word and the state it runs on. Between two commands it is the oldest command at
the port, taken from it (R64); in stage 2 of a TICK it is the tag of the voice under evaluation (R81),
and the port is left alone (R61, R221). -/
def fetched (s : State) : Option (CodeWord × State) :=
  match s.tick, s.port with
  | .evaluate v _, _ => some (.wave8 (s.voice v).wave, s)
  | .idle, .command w :: rest => some (.cmd32 w, s.setPort rest)
  | .idle, .reset :: _ => none
  | .idle, .collision _ _ :: _ => none
  | .idle, [] => none
  | .finish _, _ => none

/-- A step without an instruction: the last stages of a TICK (R103), RESET between two commands (R220,
R221), the refusal of concurrent access (R231; log 6), or nothing while the host sends nothing (R212;
log 9). -/
def betweenInstr (s : State) : Host.Outcome State Fault Refusal :=
  match s.tick, s.port with
  | .finish l, _ => .next (finishTick l s)
  | .idle, .reset :: rest => .next (s.setPort rest).takeReset
  | .idle, .collision _ _ :: _ => .refused .concurrentAccess
  | .idle, .command _ :: _ => .next s
  | .idle, [] => .next s
  | .evaluate _ _, _ => .next s

/-- The state with a tag standing where stage 2 of a TICK fetches it: `WAVE[0]`, with voice 0 under
evaluation and the noise value that `SEED` gives (R103, R132; log 12). -/
def placeTag (s : State) (c : WaveCode) : State :=
  (s.setVoice 0 { s.voice 0 with wave := c }).setTick
    (.evaluate 0 (Locals.start (noiseValue s.seed)))

/-- The state with a command word as the oldest event at the port, between two commands (R64). -/
def placeCommand (s : State) (w : Command) : State :=
  (s.setTick .idle).setPort (.command w :: s.port)

/-- The state with an encoded word where the next step fetches it. -/
def placeWord (s : State) (cw : CodeWord) : State :=
  match cw with
  | .cmd32 w => placeCommand s w
  | .wave8 c => placeTag s c

end Sys2Proof.Machine
end

