-- ==== Sys2Proof/Machine/Step.lean ====
section
/-! DEFINITION. One step of the machine: one command, one RESET, or, from a state inside a TICK, one
waveform case or the last stages (20_memory.md R64, 40_commands.md R103; log 3). -/

namespace Sys2Proof.Machine

def step (s : State) : Host.Outcome State Fault Refusal :=
  match fetched s with
  | some (cw, s1) => mapNext afterInstr (exec (decode cw) s1)
  | none => betweenInstr s

/-- `s` with the table row's word standing where the next step fetches it. Log 1, log 12. -/
def State.withFetchWord (s : State) (nbits w : Nat) : State :=
  match tableWord nbits w with
  | some cw => placeWord s cw
  | none => s

end Sys2Proof.Machine
end

