-- ==== Sys2Proof/Machine/Assembler.lean ====
section
/-! DEFINITION. The assembly language of 30_encoding.md: statements, register names and literals (R82),
the pseudo-instructions and their expansions (R83), and the text they are written in. `none` is the
assembler's refusal (R82). It always emits canonical words (R76). Log 10. -/

namespace Sys2Proof.Machine

/-- The voice fields a register name can name (R82). -/
inductive FieldName where
  | wave | phase | freq | duty | vol | crush | scaled
  deriving DecidableEq, Repr

/-- The offset of a field in its voice block (R36, R82: "address 8n + 0..6"). -/
def FieldName.offset : FieldName → Nat
  | .wave => 0
  | .phase => 1
  | .freq => 2
  | .duty => 3
  | .vol => 4
  | .crush => 5
  | .scaled => 6

/-- `<reg>` (R82). -/
inductive AsmReg where
  | voice (n : Nat) (f : FieldName)
  | seedLo
  | seedHi
  | sample
  | raw (addr : Nat)
  deriving DecidableEq, Repr

/-- The waveform mnemonics of R81. -/
inductive WaveName where
  | tri | saw | pulse | noise | sine | absSine | qSine | silence
  deriving DecidableEq, Repr

/-- TRI = 0 .. QSINE = 6, SILENCE = 7 (R82). -/
def WaveName.code : WaveName → Nat
  | .tri => 0
  | .saw => 1
  | .pulse => 2
  | .noise => 3
  | .sine => 4
  | .absSine => 5
  | .qSine => 6
  | .silence => 7

/-- `<imm>` (R82). -/
inductive AsmImm where
  | lit (v : Int)
  | tag (t : WaveName)
  deriving DecidableEq, Repr

/-- One statement: the four commands (R82) and the four pseudo-instructions (R83). -/
inductive AsmStmt where
  | nop
  | rd (r : AsmReg)
  | wr (r : AsmReg) (i : AsmImm)
  | tick
  | seed (v : Int)
  | voice (n : Nat) (wave freq duty vol crush : AsmImm)
  | mute (n : Nat)
  | ticks (k : Nat)
  deriving DecidableEq, Repr

/-- The address of a register name; a voice outside 0..7 and an address outside 0..127 are refused (R82). -/
def AsmReg.addr : AsmReg → Option RegAddr
  | .voice n f => if n < 8 then some (BitVec.ofNat 7 (8 * n + f.offset)) else none
  | .seedLo => some 0x40
  | .seedHi => some 0x41
  | .sample => some 0x42
  | .raw a => if a < 128 then some (BitVec.ofNat 7 a) else none

/-- The data word of an immediate: a literal outside -32768..65535 is refused, a negative one is its
16-bit two's-complement pattern (R82, R74). -/
def AsmImm.data : AsmImm → Option Half
  | .lit v => if -32768 ≤ v ∧ v ≤ 65535 then some (u16 v) else none
  | .tag t => some (BitVec.ofNat 16 t.code)

/-- May the seed of a SEED statement be this number? 32 bits, read like the 16-bit literals (log 10). -/
def seedLiteralOk (v : Int) : Bool := decide (-(2 ^ 31) ≤ v) && decide (v < 2 ^ 32)

/-- The expansion of a statement into the four commands, in order (R83); the high half of a seed
first, a voice's volume last. -/
def AsmStmt.expand : AsmStmt → Option (List AsmStmt)
  | .nop => some [.nop]
  | .rd r => some [.rd r]
  | .wr r i => some [.wr r i]
  | .tick => some [.tick]
  | .seed v =>
    if seedLiteralOk v then
      some [.wr .seedHi (.lit (v % 2 ^ 32 / 2 ^ 16)), .wr .seedLo (.lit (v % 2 ^ 16))]
    else none
  | .voice n w f d vol k =>
    some [.wr (.voice n .wave) w, .wr (.voice n .freq) f, .wr (.voice n .duty) d,
      .wr (.voice n .crush) k, .wr (.voice n .vol) vol]
  | .mute n => some [.wr (.voice n .vol) (.lit 0)]
  | .ticks k => if 1 ≤ k then some (List.replicate k .tick) else none

/-- The instruction of one of the four command statements; a pseudo-instruction has none of its own. -/
def AsmStmt.instr : AsmStmt → Option Instr
  | .nop => some .nop
  | .rd r => r.addr.map .rd
  | .wr r i =>
    match r.addr, i.data with
    | some a, some d => some (.wr a d)
    | _, _ => none
  | .tick => some .tick
  | .seed _ => none
  | .voice _ _ _ _ _ _ => none
  | .mute _ => none
  | .ticks _ => none

/-- The instructions of a list of command statements, all or none. -/
def instrsOf : List AsmStmt → Option (List Instr)
  | [] => some []
  | s :: rest =>
    match s.instr, instrsOf rest with
    | some i, some is => some (i :: is)
    | _, _ => none

/-- The command word of an instruction, if it is a command. -/
def instrWord (i : Instr) : Option Command :=
  match encode i with
  | .cmd32 w => some w
  | .wave8 _ => none

/-- The instructions a statement assembles to (R82, R83). -/
def AsmStmt.instrs (s : AsmStmt) : Option (List Instr) := s.expand.bind instrsOf

/-- The canonical words a statement assembles to (R76, R82, R83). -/
def AsmStmt.words (s : AsmStmt) : Option (List Command) :=
  s.instrs.map fun is => is.filterMap instrWord

/-- Put the word that ends here, if any, in front of the rest. -/
def pushToken (rev : List Char) (rest : List (List Char)) : List (List Char) :=
  if rev = [] then rest else rev.reverse :: rest

/-- The tokens of a line, in upper case: words and commas, up to the comment (R82). -/
def lexLine : List Char → List Char → List (List Char)
  | [], rev => pushToken rev []
  | c :: cs, rev =>
    if c = ';' then pushToken rev []
    else if c.isWhitespace then pushToken rev (lexLine cs [])
    else if c = ',' then pushToken rev ([','] :: lexLine cs [])
    else lexLine cs (c.toUpper :: rev)

/-- The value of a digit in upper case, if it is one. -/
def digitValue (c : Char) : Option Nat :=
  if '0' ≤ c ∧ c ≤ '9' then some (c.toNat - '0'.toNat)
  else if 'A' ≤ c ∧ c ≤ 'F' then some (c.toNat - 'A'.toNat + 10)
  else none

/-- The number a run of digits writes in a base, on top of `acc`. -/
def digitsValue (base : Nat) : List Char → Nat → Option Nat
  | [], acc => some acc
  | c :: cs, acc =>
    match digitValue c with
    | some d => if d < base then digitsValue base cs (base * acc + d) else none
    | none => none

/-- A non-negative literal: decimal, `0x` hexadecimal or `0b` binary (R82). -/
def natLiteral : List Char → Option Nat
  | [] => none
  | '0' :: 'X' :: d :: ds => digitsValue 16 (d :: ds) 0
  | '0' :: 'B' :: d :: ds => digitsValue 2 (d :: ds) 0
  | d :: ds => digitsValue 10 (d :: ds) 0

/-- A literal with an optional minus sign (R82, R83). -/
def intLiteral : List Char → Option Int
  | '-' :: ds => (natLiteral ds).map fun n => -(n : Int)
  | ds => (natLiteral ds).map fun n => (n : Int)

/-- The waveform mnemonics, in upper case (R81). -/
def waveNames : List (List Char × WaveName) :=
  [ ("TRI".toList, .tri), ("SAW".toList, .saw), ("PULSE".toList, .pulse), ("NOISE".toList, .noise),
    ("SINE".toList, .sine), ("ABSSINE".toList, .absSine), ("QSINE".toList, .qSine),
    ("SILENCE".toList, .silence) ]

/-- The field names, in upper case (R82). -/
def fieldNames : List (List Char × FieldName) :=
  [ ("WAVE".toList, .wave), ("PHASE".toList, .phase), ("FREQ".toList, .freq), ("DUTY".toList, .duty),
    ("VOL".toList, .vol), ("CRUSH".toList, .crush), ("SCALED".toList, .scaled) ]

/-- `<imm>` (R82). -/
def parseImm (t : List Char) : Option AsmImm :=
  match waveNames.lookup t with
  | some w => some (.tag w)
  | none => (intLiteral t).map .lit

/-- `V<n>.<field>` after the letter V (R82). -/
def parseVoiceReg (t : List Char) : Option AsmReg :=
  match digitsValue 10 (t.takeWhile (· ≠ '.')) 0, t.dropWhile (· ≠ '.') with
  | some n, '.' :: f =>
    if t.head? = some '.' then none else (fieldNames.lookup f).map (.voice n)
  | _, _ => none

/-- `<reg>` (R82). -/
def parseReg (t : List Char) : Option AsmReg :=
  if t = "SEEDLO".toList then some .seedLo
  else if t = "SEEDHI".toList then some .seedHi
  else if t = "SAMPLE".toList then some .sample
  else
    match t with
    | '@' :: ds => (natLiteral ds).map .raw
    | 'V' :: rest => parseVoiceReg rest
    | _ => none

/-- The statement of a line's tokens (R82, R83). DESIGN CHOICE (log 10): R83's `<imm32>`, which the spec
does not define, is a numeric literal only, so a waveform mnemonic as the seed of SEED is refused. -/
def parseStmt : List (List Char) → Option AsmStmt
  | [m] =>
    if m = "NOP".toList then some .nop
    else if m = "TICK".toList then some .tick
    else none
  | [m, x] =>
    if m = "RD".toList then (parseReg x).map .rd
    else if m = "SEED".toList then (intLiteral x).map .seed
    else if m = "MUTE".toList then (natLiteral x).map .mute
    else if m = "TICKS".toList then (natLiteral x).map .ticks
    else none
  | [m, x, [','], y] =>
    if m = "WR".toList then
      match parseReg x, parseImm y with
      | some r, some i => some (.wr r i)
      | _, _ => none
    else none
  | [m, n, [','], w, [','], f, [','], d, [','], v, [','], k] =>
    if m = "VOICE".toList then
      match natLiteral n, parseImm w, parseImm f, parseImm d, parseImm v, parseImm k with
      | some n, some w, some f, some d, some v, some k => some (.voice n w f d v k)
      | _, _, _, _, _, _ => none
    else none
  | _ => none

/-- The words of one line of text; a line with nothing but a comment has none (R82). -/
def assembleLine (line : List Char) : Option (List Command) :=
  match lexLine line [] with
  | [] => some []
  | toks => (parseStmt toks).bind AsmStmt.words

/-- The lines of a text. -/
def splitLines : List Char → List Char → List (List Char)
  | [], rev => [rev.reverse]
  | c :: cs, rev => if c = '\n' then rev.reverse :: splitLines cs [] else splitLines cs (c :: rev)

/-- The words of several lines, all or none. -/
def assembleLines : List (List Char) → Option (List Command)
  | [] => some []
  | l :: rest =>
    match assembleLine l, assembleLines rest with
    | some ws, some more => some (ws ++ more)
    | _, _ => none

/-- The words of a text, one statement per line (R82). -/
def assemble (text : String) : Option (List Command) := assembleLines (splitLines text.toList [])

end Sys2Proof.Machine
end

