-- ==== Sys2Proof/Machine/Flags.lean ====
section
/-! DEFINITION. "The block has no flags, condition codes or predicates, and no status register"
(10_state.md R33), so no flag is computed. What a flag would report is the one condition below, which
60_exceptions.md R202 says never holds of a TICK's arithmetic. -/

namespace Sys2Proof.Machine

/-- Does the exact result `v` lie outside a signed field of `w+1` bits? (R33, R202) -/
def overflowsSigned (w : Nat) (v : Int) : Bool := decide (v < -(2 ^ w)) || decide (2 ^ w ≤ v)

end Sys2Proof.Machine
end

