-- ==== Sys2Proof/Safety.lean ====
section
/-! DEFINITION. What claims about the block are stated in: running a list of instructions, what keeps a
step from having a meaning, and the invariant that every step keeps. -/

namespace Sys2Proof.Machine

/-- The meanings of a list of instructions, one after the other (R64). -/
def execAll : List Instr → State → Host.Outcome State Fault Refusal
  | [], s => .next s
  | i :: is, s =>
    match exec i s with
    | .next t => execAll is t
    | .fault r => .fault r
    | .refused r => .refused r

/-- Two agents drive the port at once, the one thing that has no behaviour (R231). -/
def Event.isCollision : Event → Bool
  | .collision _ _ => true
  | .command _ => false
  | .reset => false

/-- Is the event a command, which is answered by one response (R78)? RESET is not (R220). -/
def Event.isCommand : Event → Bool
  | .command _ => true
  | .collision _ _ => false
  | .reset => false

/-- A run that meets only this is safe: one host drives the port (R64, R210). -/
def State.soleHost (s : State) : Prop := ∀ e ∈ s.port, e.isCollision = false

/-- A raw, crushed or noise value lies in -128..127 (R132, R140, R149). -/
abbrev byteRange (v : Int) : Prop := -128 ≤ v ∧ v ≤ 127

/-- A scaled value lies in -32640..32385 (R150). -/
abbrev scaledRange (v : Int) : Prop := -32640 ≤ v ∧ v ≤ 32385

/-- What TICK can leave in a `SCALED` latch (R36: "-32640..32385 reached"). -/
abbrev latchOk (x : Voice) : Prop := scaledRange x.scaled.toInt

/-- What TICK can leave in `SAMPLE` (R36: "each byte 0..254 reached"). -/
abbrev sampleOk (w : Half) : Prop := w.toNat % 256 ≤ 254 ∧ w.toNat / 256 ≤ 254

/-- The locals of a TICK in progress hold for voice `u` what stage 2 of R103 gives it. -/
def evaluatedOk (s : State) (l : Locals) (u : Fin 8) : Prop :=
  l.raw.get u = rawOf (s.voice u) l.nz ∧
  l.cr.get u = crushedOf (s.voice u) l.nz ∧
  l.sc.get u = scaledOf (s.voice u) l.nz

/-- A TICK in progress stands as R103 says: the noise value is that of the seed stage 1 left, and every
voice already evaluated has the values of stage 2. -/
def tickOk (s : State) : Prop :=
  match s.tick with
  | .idle => True
  | .evaluate v l => l.nz = noiseValue s.seed ∧ ∀ u : Fin 8, u.val < v.val → evaluatedOk s l u
  | .finish l => l.nz = noiseValue s.seed ∧ ∀ u : Fin 8, evaluatedOk s l u

/-- The invariant of the block: the read-only latches hold what a TICK can put there (R36), and a TICK
in progress stands as R103 says. -/
structure State.Inv (s : State) : Prop where
  latches : ∀ v : Fin 8, latchOk (s.voice v)
  sample : sampleOk s.sample
  ticks : tickOk s

end Sys2Proof.Machine
end

