-- ==== Sys2Proof/Certificates/Slice0/Obligations.lean ====
section
/-! DEFINITION. The statements for the provers, each after a numbered rule of the spec or a section of
it. A statement "about a TICK" runs the command TICK as one step, as the host sees it (20_memory.md R61);
where the stages inside it are meant, the docstring says so. Voice 0..3 are the carriers, 4..7 the
modulators. `port` and `out` are the model's two lists for the command port of R64 and the responses of
R78 (log 1, log 2), and a state inside a TICK, with the tag of a voice as its next instruction, is the
model's as well (log 3); `s.respond r` is `resp <- r`. No statement rests on a value the model chose. -/

open Sys2Proof Sys2Proof.Machine

/-! ### Encoding -/

/-- Every well-formed instruction is read back from its own word, with every address, every data word
and every tag (30_encoding.md sections 1, 3 and 6). -/
def Obligations.DecodeOfEncodeIsTheInstruction : Prop :=
  ∀ i : Instr, i.wf = true → decode (encode i) = i

/-- R72, R76: RSV and every field a command does not use are ignored, and the canonical words are the
four of R76. -/
def Obligations.UnusedFieldsAreIgnored : Prop :=
  (∀ w w' : Command,
    opField w = opField w' →
    ((opField w = 1 ∨ opField w = 2) → addrField w = addrField w') →
    (opField w = 2 → dataField w = dataField w') →
    decodeCommand w = decodeCommand w') ∧
  encode .nop = .cmd32 0x00000000 ∧
  encode .tick = .cmd32 0xC0000000 ∧
  (∀ a : RegAddr, encode (.rd a) = .cmd32 (0x40000000 ||| a.setWidth 32 <<< 16)) ∧
  (∀ (a : RegAddr) (d : Half),
    encode (.wr a d) = .cmd32 (0x80000000 ||| a.setWidth 32 <<< 16 ||| d.setWidth 32)) ∧
  (∀ w : Command, ∃ w' : Command, encode (decodeCommand w) = .cmd32 w' ∧
    rsvField w' = 0 ∧ decodeCommand w' = decodeCommand w)

/-- R75, R77: every word, command or tag, matches exactly one row of the opcode table, and the row's
mnemonic and format are those of the instruction the decoder reads. -/
def Obligations.EachWordMatchesOneOpcodeRow : Prop :=
  ∀ cw : CodeWord, ∃ r : OpcodeRow,
    opcodeRows.filter (fun q => q.covers cw) = [r] ∧
    r.mnemonic = (decode cw).mnemonic ∧
    r.format = (decode cw).format ∧
    (decode cw).wf = true

/-- The words that 95_test_vectors.md section 2.1 writes out decode as it says. -/
def Obligations.WrittenOutWordsDecode : Prop :=
  decodeCommand 0x00000000 = .nop ∧
  decodeCommand 0x3FFFFFFF = .nop ∧
  decodeCommand 0x40000000 = .rd 0x00 ∧
  decodeCommand 0x7F800000 = .rd 0x00 ∧
  decodeCommand 0x4042ABCD = .rd 0x42 ∧
  decodeCommand 0x80021000 = .wr 0x02 0x1000 ∧
  decodeCommand 0xBFFF1234 = .wr 0x7F 0x1234 ∧
  decodeCommand 0xC0000000 = .tick ∧
  decodeCommand 0xFFFFFFFF = .tick ∧
  decodeWave 0x05 = .waveAbsSine ∧
  decodeWave 0xFF = .waveSilence 0xFF

/-! ### Steps, the command port and RESET -/

/-- Between two commands a step takes the oldest command from the port and is exec of the instruction
it decodes to, and nothing more (20_memory.md section 5). The port is the model's list (log 1). -/
def Obligations.StepRunsTheOldestCommand : Prop :=
  ∀ (s : State) (w : Command) (rest : List Event),
    s.tick = .idle → s.port = .command w :: rest →
    step s = exec (decodeCommand w) (s.setPort rest)

/-- In stage 2 of a TICK a step decodes the tag of the voice under evaluation (R81), is exec of that
waveform case, and then crushes and scales the voice and moves on (R103). The raw value is the one
R140's `wave` selects. That the stages can be stepped one by one is the model's (log 3). -/
def Obligations.StepInsideTickRunsTheTag : Prop :=
  ∀ (s : State) (v : Fin 8) (l : Locals), s.tick = .evaluate v l →
    let x := s.voice v
    let l' : Locals := { l with raw := l.raw.set v (wave x.wave x.phase x.duty l.nz) }
    exec (decodeWave x.wave) s = .next (s.setTick (.evaluate v l')) ∧
    step s = .next (s.setTick (Tick.after v (closeVoice v x l')))

/-- A word placed for the next step is the one the next step runs: a command from between two
commands, a tag from stage 2 of a TICK at voice 0 (log 1, log 12). -/
def Obligations.PlacedWordIsRunNext : Prop :=
  ∀ (s : State) (w : Nat),
    step (s.withFetchWord 32 w) = exec (decodeCommand (BitVec.ofNat 32 w)) (s.setTick .idle) ∧
    (s.withFetchWord 8 w).tick = .evaluate 0 (Locals.start (noiseValue s.seed)) ∧
    step (s.withFetchWord 8 w) =
      mapNext afterInstr (exec (decodeWave (BitVec.ofNat 8 w)) (s.withFetchWord 8 w))

/-- RESET sets every state element to its reset value and returns no response, from any state between
two commands (70_reset_and_hazards.md section 1). RESET as an event of the port is the model's (log 1), and
so is that it leaves the list of the responses already given (log 2, log 11). -/
def Obligations.ResetSetsEveryRegister : Prop :=
  ∀ (s : State) (rest : List Event), s.tick = .idle → s.port = .reset :: rest →
    ∃ t, step s = .next t ∧
      (∀ v : Fin 8, t.voice v = ⟨0, 0, 0, 0, 0, 0, 0⟩) ∧
      t.seed = 0x00000001 ∧ t.sample = 0x8080 ∧ t.tick = .idle ∧ t.out = s.out

/-- Between commands the block holds all its state for as long as the host sends nothing
(60_exceptions.md section 5; the empty port is the model's, log 9). -/
def Obligations.NothingSentNothingChanges : Prop :=
  ∀ s : State, s.tick = .idle → s.port = [] → step s = .next s

/-- A step refuses exactly where two agents are at the one port between two commands (R231, 93 U1), and
answers a next state everywhere else; no state faults (60_exceptions.md section 1). The event that
stands for concurrent access, and its name, are the model's (log 6). -/
def Obligations.OnlyConcurrentAccessIsRefused : Prop :=
  ∀ s : State,
    (step s = .refused .concurrentAccess ↔
      s.tick = .idle ∧ ∃ a b rest, s.port = .collision a b :: rest) ∧
    (¬ (s.tick = .idle ∧ ∃ a b rest, s.port = .collision a b :: rest) → ∃ t, step s = .next t)

/-- A single host is never refused, and its port stays its own: the port after a step is the port
before it, or that port without its oldest event (20_memory.md section 5). The port is the model's list
(log 1). That RESET, too, leaves the commands waiting behind it is the model's (log 11). -/
def Obligations.SingleHostIsNeverRefused : Prop :=
  ∀ s : State, s.soleHost →
    ∃ t, step s = .next t ∧ t.soleHost ∧
      (t.port = s.port ∨ ∃ e, s.port = e :: t.port ∧ s.tick = .idle)

/-- A TICK once begun neither reads nor changes what waits at the port, so neither a command nor RESET
takes effect part-way through it (70_reset_and_hazards.md section 1, 20_memory.md section 4; the stages
as steps are the model's, log 3). -/
def Obligations.InsideTickThePortIsNotSeen : Prop :=
  ∀ (s : State) (p : List Event), s.tick ≠ .idle →
    step (s.setPort p) = mapNext (fun t => t.setPort p) (step s) ∧
    ∃ t, step s = .next t ∧ t.port = s.port

/-- Commands at the port run one after the other, each whole, in the order the host sent them
(20_memory.md section 5; the port is the model's list, log 1). -/
def Obligations.CommandsRunInOrder : Prop :=
  ∀ (ws : List Command) (more : List Event) (s : State), s.tick = .idle →
    Sys2Proof.core.run ws.length (s.setPort (ws.map Event.command ++ more)) =
      execAll (ws.map decodeCommand) (s.setPort more)

/-- Events of one host are taken in order: after as many steps as there are events, all of them are
taken, the block is between two commands, and it has answered each command once and no RESET
(20_memory.md section 5, 30_encoding.md section 3). The port and the responses are the model's lists
(log 1, log 2). That a RESET among the events leaves the commands waiting behind it and the responses
already given is the model's choice, not the spec's (log 11). -/
def Obligations.EachCommandIsAnsweredOnce : Prop :=
  ∀ (es : List Event) (more : List Event) (s : State),
    s.tick = .idle → (∀ e ∈ es, e.isCollision = false) →
    ∃ t : State, Sys2Proof.core.run es.length (s.setPort (es ++ more)) = .next t ∧
      t.tick = .idle ∧ t.port = more ∧
      t.out.take s.out.length = s.out ∧
      t.out.length = s.out.length + (es.filter Event.isCommand).length

/-! ### NOP, RD and WR -/

/-- R78: the response of each command: 0 for NOP and WR, the location for RD, the sample for TICK; NOP and
RD change nothing else. -/
def Obligations.EveryCommandReturnsItsResponse : Prop :=
  (∀ s : State, exec .nop s = .next (s.respond 0x0000)) ∧
  (∀ (s : State) (a : RegAddr), exec (.rd a) s = .next (s.respond (memRead s a))) ∧
  (∀ (s : State) (a : RegAddr) (d : Half), ∃ t, exec (.wr a d) s = .next t ∧
    t.out = s.out ++ [0x0000]) ∧
  (∀ s : State, ∃ t, exec .tick s = .next t ∧ t.out = s.out ++ [t.sample])

/-- R53: what RD returns at each of the 128 addresses, and that it changes no state. -/
def Obligations.ReadReturnsTheSelectedField : Prop :=
  ∀ s : State,
    (∀ v : Fin 8,
      let x := s.voice v
      let rd (f : Nat) := exec (.rd (BitVec.ofNat 7 (8 * v.val + f))) s
      rd 0 = .next (s.respond (BitVec.ofNat 16 x.wave.toNat)) ∧
      rd 1 = .next (s.respond x.phase) ∧
      rd 2 = .next (s.respond x.freq) ∧
      rd 3 = .next (s.respond x.duty) ∧
      rd 4 = .next (s.respond (BitVec.ofNat 16 x.vol.toNat)) ∧
      rd 5 = .next (s.respond (BitVec.ofNat 16 x.crush.toNat)) ∧
      rd 6 = .next (s.respond x.scaled) ∧
      rd 7 = .next (s.respond 0x0000)) ∧
    exec (.rd 0x40) s = .next (s.respond (BitVec.ofNat 16 (s.seed.toNat % 65536))) ∧
    exec (.rd 0x41) s = .next (s.respond (BitVec.ofNat 16 (s.seed.toNat / 65536))) ∧
    exec (.rd 0x42) s = .next (s.respond s.sample) ∧
    (∀ a : RegAddr, 0x43 ≤ a.toNat → exec (.rd a) s = .next (s.respond 0x0000))

/-- R54: what WR writes at each of the 128 addresses, that it writes nothing else, and that writing the
value a location holds changes nothing. -/
def Obligations.WriteSetsTheSelectedField : Prop :=
  ∀ (s : State) (d : Half),
    (∀ v : Fin 8,
      let x := s.voice v
      let wr (f : Nat) := exec (.wr (BitVec.ofNat 7 (8 * v.val + f)) d) s
      let done (y : Voice) : Host.Outcome State Fault Refusal :=
        .next ((s.setVoice v y).respond 0x0000)
      wr 0 = done { x with wave := BitVec.ofNat 8 d.toNat } ∧
      wr 1 = done { x with phase := d } ∧
      wr 2 = done { x with freq := d } ∧
      wr 3 = done { x with duty := d } ∧
      wr 4 = done { x with vol := BitVec.ofNat 8 d.toNat } ∧
      wr 5 = done { x with crush := BitVec.ofNat 4 d.toNat } ∧
      wr 6 = .next (s.respond 0x0000) ∧
      wr 7 = .next (s.respond 0x0000)) ∧
    exec (.wr 0x40 d) s =
      .next ((s.setSeed (BitVec.ofNat 32 (s.seed.toNat / 65536 * 65536 + d.toNat))).respond 0x0000) ∧
    exec (.wr 0x41 d) s =
      .next ((s.setSeed (BitVec.ofNat 32 (d.toNat * 65536 + s.seed.toNat % 65536))).respond 0x0000) ∧
    exec (.wr 0x42 d) s = .next (s.respond 0x0000) ∧
    (∀ a : RegAddr, 0x43 ≤ a.toNat → exec (.wr a d) s = .next (s.respond 0x0000)) ∧
    (∀ a : RegAddr, exec (.wr a (memRead s a)) s = .next (s.respond 0x0000))

/-- The frame of WR: every location at another address reads as before, and the read-only latches, the
stage and the port are untouched (20_memory.md sections 2 and 4). -/
def Obligations.WriteLeavesOtherLocations : Prop :=
  ∀ (s : State) (a : RegAddr) (d : Half), ∃ t, exec (.wr a d) s = .next t ∧
    (∀ b : RegAddr, b ≠ a → memRead t b = memRead s b) ∧
    (∀ v : Fin 8, (t.voice v).scaled = (s.voice v).scaled) ∧
    t.sample = s.sample ∧ t.tick = s.tick ∧ t.port = s.port

/-- R56: a WR then RD of one location returns the data masked to the field's width: 8 bits for WAVE and
VOL, 4 for CRUSH, all 16 for the other fields a host may write. -/
def Obligations.WriteThenReadReturnsMaskedData : Prop :=
  ∀ (s : State) (a : RegAddr) (d : Half),
    (a.toNat < 0x40 ∧ a.toNat % 8 ≤ 5 ∨ a.toNat = 0x40 ∨ a.toNat = 0x41) →
    ∃ t, execAll [.wr a d, .rd a] s = .next t ∧
      t.out = s.out ++ [0x0000,
        if a.toNat < 0x40 ∧ (a.toNat % 8 = 0 ∨ a.toNat % 8 = 4) then d &&& 0x00FF
        else if a.toNat < 0x40 ∧ a.toNat % 8 = 5 then d &&& 0x000F
        else d]

/-- RD and NOP can be repeated without changing the state, a WR repeated leaves the state of one, and a
TICK changes the seed unless it is 0 (20_memory.md section 4). -/
def Obligations.ReadsAndWritesAreIdempotent : Prop :=
  (∀ s : State, ∃ t, execAll [.nop, .nop] s = .next t ∧ t = { s with out := t.out }) ∧
  (∀ (s : State) (a : RegAddr), ∃ t, execAll [.rd a, .rd a] s = .next t ∧ t = { s with out := t.out }) ∧
  (∀ (s : State) (a : RegAddr) (d : Half), ∃ t u,
    execAll [.wr a d] s = .next t ∧ execAll [.wr a d, .wr a d] s = .next u ∧
    u = { t with out := u.out }) ∧
  (∀ s : State, ∃ t, exec .tick s = .next t ∧ (t.seed = s.seed ↔ s.seed = 0)) ∧
  (∀ s : State, ∃ t, exec .tick s = .next t ∧
    ∀ v : Fin 8, 4 ≤ v.val →
      (t.voice v).phase.toNat = ((s.voice v).phase.toNat + (s.voice v).freq.toNat / 4) % 65536)

/-- Two writes load any seed, and a TICK between the two halves steps the mixed value; a mixed value of
0 stays 0 however many TICKs follow (70_reset_and_hazards.md section 3). -/
def Obligations.SeedIsLoadedByHalves : Prop :=
  (∀ (s : State) (x : Seed), ∃ t,
    execAll [.wr 0x41 (BitVec.ofNat 16 (x.toNat / 65536)), .wr 0x40 (BitVec.ofNat 16 x.toNat)] s =
      .next t ∧ t = { s with seed := x, out := t.out }) ∧
  (∀ (s : State) (h : Half), ∃ t, execAll [.wr 0x41 h, .tick] s = .next t ∧
    t.seed = lfsrStep (BitVec.ofNat 32 (h.toNat * 65536 + s.seed.toNat % 65536))) ∧
  (∀ (s : State) (k : Nat), s.seed.toNat % 65536 = 0 → ∃ t,
    execAll (.wr 0x41 0 :: List.replicate k .tick) s = .next t ∧ t.seed = 0)

/-! ### The assembler -/

/-- Every word a statement assembles to is canonical (R76). RD and WR, of every register name and every
immediate, assemble to the word of 30_encoding.md section 7 and are refused exactly outside its ranges:
a voice number in 0..7, a raw address in 0..127, a literal in -32768..65535. VOICE and MUTE are the
WRs they expand to, and are refused where one of those is. -/
def Obligations.AssemblerEmitsCanonicalWords : Prop :=
  let address (r : AsmReg) : Option Nat :=
    match r with
    | .voice n f => if n < 8 then some (8 * n + f.offset) else none
    | .seedLo => some 0x40
    | .seedHi => some 0x41
    | .sample => some 0x42
    | .raw a => if a < 128 then some a else none
  let value (i : AsmImm) : Option Nat :=
    match i with
    | .lit v => if -32768 ≤ v ∧ v ≤ 65535 then some (v % 65536).toNat else none
    | .tag t => some t.code
  (∀ (st : AsmStmt) (ws : List Command), st.words = some ws →
    ∀ w ∈ ws, encode (decodeCommand w) = .cmd32 w) ∧
  AsmStmt.nop.words = some [0x00000000] ∧
  AsmStmt.tick.words = some [0xC0000000] ∧
  (∀ r : AsmReg, (AsmStmt.rd r).words =
    (address r).map fun a => [BitVec.ofNat 32 (0x40000000 + a * 65536)]) ∧
  (∀ (r : AsmReg) (i : AsmImm), (AsmStmt.wr r i).words =
    match address r, value i with
    | some a, some d => some [BitVec.ofNat 32 (0x80000000 + a * 65536 + d)]
    | _, _ => none) ∧
  [FieldName.wave, .phase, .freq, .duty, .vol, .crush, .scaled].map FieldName.offset =
    [0, 1, 2, 3, 4, 5, 6] ∧
  [WaveName.tri, .saw, .pulse, .noise, .sine, .absSine, .qSine, .silence].map WaveName.code =
    [0, 1, 2, 3, 4, 5, 6, 7] ∧
  (∀ (n : Nat) (w f d vol k : AsmImm), (AsmStmt.voice n w f d vol k).words =
    match (AsmStmt.wr (.voice n .wave) w).words, (AsmStmt.wr (.voice n .freq) f).words,
      (AsmStmt.wr (.voice n .duty) d).words, (AsmStmt.wr (.voice n .crush) k).words,
      (AsmStmt.wr (.voice n .vol) vol).words with
    | some w0, some w1, some w2, some w3, some w4 => some (w0 ++ w1 ++ w2 ++ w3 ++ w4)
    | _, _, _, _, _ => none) ∧
  (∀ n : Nat, (AsmStmt.mute n).words = (AsmStmt.wr (.voice n .vol) (.lit 0)).words) ∧
  (∀ n : Nat, 8 ≤ n → (AsmStmt.mute n).words = none ∧
    ∀ w f d vol k : AsmImm, (AsmStmt.voice n w f d vol k).words = none)

/-- What the pseudo-instructions of 30_encoding.md section 7 do when run: SEED loads the seed, VOICE sets
five fields of one voice and leaves its phase, MUTE sets its volume to 0. -/
def Obligations.PseudoInstructionsDoWhatTheyName : Prop :=
  (∀ (s : State) (x : Seed), ∃ is t, (AsmStmt.seed x.toNat).instrs = some is ∧
    execAll is s = .next t ∧ t = { s with seed := x, out := t.out }) ∧
  (∀ (s : State) (n : Fin 8) (w vol : BitVec 8) (f d : Half) (k : BitVec 4), ∃ is t,
    (AsmStmt.voice n.val (.lit w.toNat) (.lit f.toNat) (.lit d.toNat) (.lit vol.toNat)
      (.lit k.toNat)).instrs = some is ∧
    execAll is s = .next t ∧
    t = { s.setVoice n { s.voice n with wave := w, freq := f, duty := d, vol := vol, crush := k } with
          out := t.out }) ∧
  (∀ (s : State) (n : Fin 8), ∃ is t, (AsmStmt.mute n.val).instrs = some is ∧
    execAll is s = .next t ∧ t = { s.setVoice n { s.voice n with vol := 0 } with out := t.out }) ∧
  (∀ k : Nat, 1 ≤ k → (AsmStmt.ticks k).instrs = some (List.replicate k .tick)) ∧
  (AsmStmt.ticks 0).instrs = none

/-! ### The noise generator -/

/-- R130: the step shifts left by one and injects the XOR of taps 31, 24, 6 and 9 of the old value. -/
def Obligations.LfsrStepShiftsAndInjects : Prop :=
  ∀ s : Seed,
    (lfsrStep s).getLsbD 0 =
      (s.getLsbD 31 ^^ s.getLsbD 24 ^^ s.getLsbD 6 ^^ s.getLsbD 9) ∧
    ∀ i < 31, (lfsrStep s).getLsbD (i + 1) = s.getLsbD i

/-- R134: the step is a bijection, undone bit by bit as the rule says; no nonzero seed steps to 0, and every nonzero seed lies on a cycle of nonzero seeds. -/
def Obligations.LfsrStepIsABijection : Prop :=
  Function.Bijective lfsrStep ∧
  (∀ s : Seed,
    s.extractLsb' 0 31 = (lfsrStep s).extractLsb' 1 31 ∧
    s.getLsbD 31 = ((lfsrStep s).getLsbD 0 ^^ (lfsrStep s).getLsbD 25 ^^
      (lfsrStep s).getLsbD 7 ^^ (lfsrStep s).getLsbD 10)) ∧
  (∀ s : Seed, s ≠ 0 → lfsrStep s ≠ 0) ∧
  (∀ s : Seed, s ≠ 0 → ∃ n : Nat, 0 < n ∧ lfsrStep^[n] s = s ∧ ∀ k : Nat, lfsrStep^[k] s ≠ 0) ∧
  lfsrStep 0x80000000 = 0x00000001

/-- TICK steps the generator exactly once, and no other instruction changes SEED but a WR of one of its
halves (42_noise.md section 1, which speaks of the commands). That a waveform tag is an instruction is
the model's (log 3), and so is that it completes outside stage 2 of a TICK and changes nothing there
(log 4). -/
def Obligations.OnlyTickAndSeedWritesChangeSeed : Prop :=
  (∀ s : State, ∃ t, exec .tick s = .next t ∧ t.seed = lfsrStep s.seed) ∧
  (∀ i : Instr, i ≠ .tick → (∀ d, i ≠ .wr 0x40 d) → (∀ d, i ≠ .wr 0x41 d) →
    ∀ s : State, ∃ t, exec i s = .next t ∧ t.seed = s.seed)

/-- With SEED = 0 a TICK leaves it 0, and every uncrushed Noise voice has the constant raw value -128
(42_noise.md section 3). -/
def Obligations.ZeroSeedIsAbsorbing : Prop :=
  ∀ s : State, s.seed = 0 → ∃ t, exec .tick s = .next t ∧ t.seed = 0 ∧
    ∀ v : Fin 8, (s.voice v).wave = 3 → (s.voice v).crush = 0 →
      (t.voice v).scaled.toInt = -128 * (s.voice v).vol.toNat

/-! ### The sine approximator -/

/-- R121: the reduction and the source's 32-bit sign trick give the same y for every phase, in
-16384..16384. -/
def Obligations.BothReductionsAgree : Prop :=
  ∀ x : Half,
    reduce x.toNat = (if x.toNat < 16384 then (x.toNat : Int)
      else if x.toNat < 49152 then 32768 - (x.toNat : Int) else (x.toNat : Int) - 65536) ∧
    reduceWord x = reduce x.toNat ∧ -16384 ≤ reduce x.toNat ∧ reduce x.toNat ≤ 16384

/-- R122, R124: the ranges of the parabola's intermediates and of its result; only the phase 16384 is
saturated, to 127. -/
def Obligations.ParabolaSaturatesOnlyAtTheQuarter : Prop :=
  (∀ y : Int, -16384 ≤ y → y ≤ 16384 →
    0 ≤ polyT y ∧ polyT y ≤ 32768 ∧ 65536 ≤ polyU y ∧ polyU y ≤ 98304 ∧
    -(2 ^ 31) < y * polyU y ∧ y * polyU y < 2 ^ 31 ∧
    poly y = y * (98304 - y * y / 8192) / 8388608 ∧
    -128 ≤ poly y ∧ poly y ≤ 128) ∧
  (∀ x : Half, poly (reduce x.toNat) = 128 ↔ x = 16384) ∧
  (∀ x : Half, quicksin x = if x = 16384 then 127 else poly (reduce x.toNat))

/-- The symmetries of quicksin: odd up to the floor's -1, and mirrored about the quarter
(41_sine.md section 3). -/
def Obligations.QuicksinSymmetries : Prop :=
  (∀ x : Half, quicksin x + quicksin (x + 32768) = 0 ∨ quicksin x + quicksin (x + 32768) = -1) ∧
  (∀ x : Half, quicksin x + quicksin (-x) = 0 ∨ quicksin x + quicksin (-x) = -1) ∧
  (∀ x : Half, x.toNat ≤ 16384 → quicksin (32768 - x) = quicksin x)

/-- quicksin rises on 0..16384, falls on 16384..49152 and rises on 49152..65535
(41_sine.md section 3). -/
def Obligations.QuicksinRisesAndFalls : Prop :=
  ∀ x y : Half, x.toNat ≤ y.toNat →
    (y.toNat ≤ 16384 → quicksin x ≤ quicksin y) ∧
    (16384 ≤ x.toNat → y.toNat ≤ 49152 → quicksin y ≤ quicksin x) ∧
    (49152 ≤ x.toNat → quicksin x ≤ quicksin y)

/-! ### The waveforms -/

/-- A waveform case has no side effects (43_voice.md section 1): in stage 2 of a TICK it changes only
`raw[v]` of the voice under evaluation, which becomes a signed byte. The stage it stands in is the
model's field for the values local to a TICK (log 3). That it completes outside stage 2 and changes
nothing there is the model's (log 4). -/
def Obligations.WaveformsHaveNoSideEffects : Prop :=
  ∀ (i : Instr) (s : State), i.format = .wave8 →
    (∀ v l, s.tick = .evaluate v l →
      ∃ r, exec i s = .next (s.setTick (.evaluate v { l with raw := l.raw.set v r })) ∧
        (byteRange l.nz → byteRange r)) ∧
    ((∀ v l, s.tick ≠ .evaluate v l) → exec i s = .next s)

/-- R141, Triangle: the raw value of the voice under evaluation, its plateaus and its symmetry. -/
def Obligations.TriangleRawValue : Prop :=
  (∀ (s : State) (v : Fin 8) (l : Locals), s.tick = .evaluate v l →
    let p : Int := (s.voice v).phase.toNat
    exec .waveTri s = .next (s.setTick (.evaluate v { l with
      raw := l.raw.set v (if p < 32768 then p / 128 - 128 else 127 - (p - 32768) / 128) }))) ∧
  (∀ p : Half, triangle p = triangle (65535 - p)) ∧
  (∀ p : Half, 32640 ≤ p.toNat ∧ p.toNat ≤ 32895 ↔ triangle p = 127) ∧
  (∀ p : Half, p.toNat ≤ 127 ∨ 65408 ≤ p.toNat ↔ triangle p = -128) ∧
  triangle 16384 = 0 ∧ triangle 49152 = -1

/-- R142, Sawtooth: the raw value of the voice under evaluation, its plateaus and its rise. -/
def Obligations.SawtoothRawValue : Prop :=
  (∀ (s : State) (v : Fin 8) (l : Locals), s.tick = .evaluate v l →
    let p : Int := (s.voice v).phase.toNat
    exec .waveSaw s = .next (s.setTick (.evaluate v { l with raw := l.raw.set v (p / 256 - 128) }))) ∧
  (∀ p q : Half, p.toNat ≤ q.toNat → sawtooth p ≤ sawtooth q) ∧
  (∀ p : Half, p.toNat ≤ 255 ↔ sawtooth p = -128) ∧
  (∀ p : Half, 65280 ≤ p.toNat ↔ sawtooth p = 127) ∧
  sawtooth 32768 = 0

/-- R143, Pulse: 127 while the phase is at most the duty, unsigned and inclusive, else -128; moving the
duty by one moves the transition by one phase unit. -/
def Obligations.PulseRawValue : Prop :=
  (∀ (s : State) (v : Fin 8) (l : Locals), s.tick = .evaluate v l →
    exec .wavePulse s = .next (s.setTick (.evaluate v { l with
      raw := l.raw.set v
        (if (s.voice v).phase.toNat ≤ (s.voice v).duty.toNat then 127 else -128) }))) ∧
  (∀ p : Half, pulse p 0 = 127 ↔ p = 0) ∧
  (∀ p : Half, pulse p 65535 = 127) ∧
  (∀ p d : Half, d ≠ 65535 → (pulse p d ≠ pulse p (d + 1) ↔ p = d + 1))

/-- R144, Noise: every Noise voice of a TICK has the TICK's noise value as its raw value, whatever its
phase and duty; with SEED = 0 it is -128. -/
def Obligations.NoiseRawValue : Prop :=
  (∀ (s : State) (v : Fin 8) (l : Locals), s.tick = .evaluate v l →
    exec .waveNoise s = .next (s.setTick (.evaluate v { l with raw := l.raw.set v l.nz }))) ∧
  (∀ s : State, ∃ t, exec .tick s = .next t ∧
    ∀ v : Fin 8, (s.voice v).wave = 3 → (s.voice v).crush = 0 →
      (t.voice v).scaled.toInt = ((t.seed.toNat % 256 : Nat) - 128) * (s.voice v).vol.toNat) ∧
  (∀ s : State, s.seed = 0 → noise (noiseValue (lfsrStep s.seed)) = -128) ∧
  noise (noiseValue (lfsrStep State.reset.seed)) = -126

/-- R145, Sine: quicksin inside the sine window, 0 outside it; both comparisons strict. -/
def Obligations.SineRawValue : Prop :=
  (∀ (s : State) (v : Fin 8) (l : Locals), s.tick = .evaluate v l →
    let p := (s.voice v).phase
    let d := (s.voice v).duty
    exec .waveSine s = .next (s.setTick (.evaluate v { l with
      raw := l.raw.set v
        (if p.toNat < d.toNat ∨ p.toNat + d.toNat > 65535 then quicksin p else 0) }))) ∧
  (∀ p : Half, sine p 0 = 0) ∧
  (∀ p d : Half, 32768 ≤ d.toNat → sine p d = quicksin p) ∧
  sine 100 100 = 0 ∧ sine 100 101 = 1 ∧ sine 65435 100 = 0 ∧ sine 65435 101 = -2 ∧
  sine 0xA000 0x6000 = -88

/-- R146, AbsSine: the sine at the phase below the duty, else at the mirrored phase; with duty 0 it is
inverted and takes negative values (90 C3). -/
def Obligations.AbsSineRawValue : Prop :=
  (∀ (s : State) (v : Fin 8) (l : Locals), s.tick = .evaluate v l →
    let p := (s.voice v).phase
    exec .waveAbsSine s = .next (s.setTick (.evaluate v { l with
      raw := l.raw.set v
        (if p.toNat < (s.voice v).duty.toNat then quicksin p
         else quicksin (BitVec.ofNat 16 (65535 - p.toNat))) }))) ∧
  (∀ p : Half, absSine p 0 + quicksin p = 0 ∨ absSine p 0 + quicksin p = -1 ∨
    absSine p 0 + quicksin p = -2) ∧
  absSine 16384 0 = -128 ∧ absSine 49152 0 = 127 ∧ absSine 1000 1001 = 11 ∧ absSine 1000 0 = -12

/-- R147, QuarterSine: 0 where bit 14 of the phase is set, else the sine; 0 up to 127 on the first
quarter and 0 down to -128 on the third. -/
def Obligations.QuarterSineRawValue : Prop :=
  (∀ (s : State) (v : Fin 8) (l : Locals), s.tick = .evaluate v l →
    let p := (s.voice v).phase
    exec .waveQSine s = .next (s.setTick (.evaluate v { l with
      raw := l.raw.set v (if p.toNat / 16384 % 2 = 1 then 0 else quicksin p) }))) ∧
  (∀ p : Half, p.toNat < 16384 → 0 ≤ quarterSine p ∧ quarterSine p ≤ 127) ∧
  (∀ p : Half, 32768 ≤ p.toNat → p.toNat < 49152 → -128 ≤ quarterSine p ∧ quarterSine p ≤ 0) ∧
  (∀ p : Half, p.toNat / 16384 % 2 = 1 → quarterSine p = 0) ∧
  quarterSine 0x2000 = 88 ∧ quarterSine 0x3FFF = 127 ∧ quarterSine 0xA000 = -88 ∧
  quarterSine 0xBFFF = -128

/-- Silence (43_voice.md section 1): raw value 0 for every tag 7..255, and a scaled value of 0 in a TICK while CRUSH is 0;
with a crush depth it is not silent. -/
def Obligations.SilenceRawValue : Prop :=
  (∀ (s : State) (c : WaveCode) (v : Fin 8) (l : Locals), s.tick = .evaluate v l →
    exec (.waveSilence c) s = .next (s.setTick (.evaluate v { l with raw := l.raw.set v 0 }))) ∧
  (∀ s : State, ∃ t, exec .tick s = .next t ∧
    ∀ v : Fin 8, 7 ≤ (s.voice v).wave.toNat →
      ((s.voice v).crush = 0 → (t.voice v).scaled = 0) ∧
      (1 ≤ (s.voice v).crush.toNat → (s.voice v).crush.toNat ≤ 7 →
        (t.voice v).scaled.toInt =
          (2 ^ (s.voice v).crush.toNat - 1) * (s.voice v).vol.toNat) ∧
      (8 ≤ (s.voice v).crush.toNat →
        (t.voice v).scaled.toInt = -((s.voice v).vol.toNat : Int)))

/-! ### Bit-crush, volume, modulation and mix -/

/-- R149: bit-crush: depth 0 does nothing, depths 1..7 force the low bits to 1 and keep the sign, depths
8..15 give -1. -/
def Obligations.CrushForcesLowBits : Prop :=
  ∀ (raw : Int) (k : BitVec 4), byteRange raw →
    (k = 0 → crush raw k = raw) ∧
    (1 ≤ k.toNat → k.toNat ≤ 7 →
      crush raw k = raw / 2 ^ k.toNat * 2 ^ k.toNat + (2 ^ k.toNat - 1) ∧
      raw ≤ crush raw k ∧ (crush raw k < 0 ↔ raw < 0)) ∧
    (8 ≤ k.toNat → crush raw k = -1) ∧
    byteRange (crush raw k)

/-- R202: no arithmetic of a TICK can overflow its stated width: raw, crushed and scaled values, the mix
sums and the mix bytes. -/
def Obligations.NoArithmeticOverflows : Prop :=
  (∀ (x : Voice) (nz : Int), byteRange nz →
    overflowsSigned 7 (rawOf x nz) = false ∧
    overflowsSigned 7 (crushedOf x nz) = false ∧
    overflowsSigned 15 (scaledOf x nz) = false ∧
    scaledRange (scaledOf x nz)) ∧
  (∀ sc : Eight Int, (∀ v, scaledRange (sc.get v)) →
    -65280 ≤ sc.v0 + sc.v2 ∧ sc.v0 + sc.v2 ≤ 64770 ∧
    -65280 ≤ sc.v1 + sc.v3 ∧ sc.v1 + sc.v3 ≤ 64770 ∧
    0 ≤ leftByte sc ∧ leftByte sc ≤ 254 ∧ 0 ≤ rightByte sc ∧ rightByte sc ≤ 254) ∧
  (∀ x : Half, -(2 ^ 31) < reduce x.toNat * polyU (reduce x.toNat) ∧
    reduce x.toNat * polyU (reduce x.toNat) < 2 ^ 31)

/-- R175: each channel is its exact sum shifted right by 9 with the floor, plus 128, left in bits
7:0 and right in bits 15:8; 255 is never produced. -/
def Obligations.MixShiftsTheSumOfTwoCarriers : Prop :=
  ∀ sc : Eight Int, (∀ v, scaledRange (sc.get v)) →
    (((mixSample sc).toNat % 256 : Nat) : Int) = (sc.get 0 + sc.get 2) / 512 + 128 ∧
    (((mixSample sc).toNat / 256 : Nat) : Int) = (sc.get 1 + sc.get 3) / 512 + 128 ∧
    (mixSample sc).toNat % 256 ≤ 254 ∧ (mixSample sc).toNat / 256 ≤ 254 ∧
    (sc.get 0 + sc.get 2 = 0 → (mixSample sc).toNat % 256 = 128) ∧
    (sc.get 1 + sc.get 3 = 0 → (mixSample sc).toNat / 256 = 128) ∧
    (-512 ≤ sc.get 0 + sc.get 2 → sc.get 0 + sc.get 2 < 0 → (mixSample sc).toNat % 256 = 127) ∧
    (-512 ≤ sc.get 1 + sc.get 3 → sc.get 1 + sc.get 3 < 0 → (mixSample sc).toNat / 256 = 127)

/-- R106: phase modulation and phase advance commute, and together they move a carrier's phase by
`(sc[c+4] >> 4) + (FREQ[c] >> 2)` and a modulator's by `FREQ[m] >> 2`, modulo 65536; those are the
phases after a TICK. -/
def Obligations.ModulationAndAdvanceCommute : Prop :=
  (∀ (sc : Eight Int) (vs : Eight Voice),
    modulateStage sc (advanceStage vs) = advanceStage (modulateStage sc vs) ∧
    (∀ c : Fin 8, (h : c.val < 4) →
      ((advanceStage (modulateStage sc vs)).get c).phase =
        BitVec.ofInt 16 ((vs.get c).phase.toNat + sc.get ⟨c.val + 4, by omega⟩ / 16 +
          (vs.get c).freq.toNat / 4)) ∧
    (∀ m : Fin 8, 4 ≤ m.val →
      ((advanceStage (modulateStage sc vs)).get m).phase.toNat =
        ((vs.get m).phase.toNat + (vs.get m).freq.toNat / 4) % 65536)) ∧
  (∀ s : State, ∃ t, exec .tick s = .next t ∧ ∀ v : Fin 8,
    let sc := (evaluateAll s.voices (noiseValue (lfsrStep s.seed))).sc
    (t.voice v).phase = ((advanceStage (modulateStage sc s.voices)).get v).phase)

/-! ### TICK -/

/-- R103: the state TICK leaves and the sample it returns, from any state: the seed stepped, every voice
evaluated from its phase at the start, phases modulated and advanced, the carriers mixed, the latches
set, and nothing else changed. -/
def Obligations.TickGeneratesOneSample : Prop :=
  ∀ s : State, ∃ t, exec .tick s = .next t ∧
    (let nz := noiseValue (lfsrStep s.seed)
     let sc (v : Fin 8) : Int :=
       crush (wave (s.voice v).wave (s.voice v).phase (s.voice v).duty nz) (s.voice v).crush *
         (s.voice v).vol.toNat
     t.seed = lfsrStep s.seed ∧
     (∀ v : Fin 8,
       (t.voice v).scaled.toInt = sc v ∧
       (t.voice v).wave = (s.voice v).wave ∧ (t.voice v).freq = (s.voice v).freq ∧
       (t.voice v).duty = (s.voice v).duty ∧ (t.voice v).vol = (s.voice v).vol ∧
       (t.voice v).crush = (s.voice v).crush) ∧
     (∀ c : Fin 8, (h : c.val < 4) →
       (t.voice c).phase = BitVec.ofInt 16 ((s.voice c).phase.toNat +
         sc ⟨c.val + 4, by omega⟩ / 16 + (s.voice c).freq.toNat / 4)) ∧
     (∀ m : Fin 8, 4 ≤ m.val →
       (t.voice m).phase.toNat = ((s.voice m).phase.toNat + (s.voice m).freq.toNat / 4) % 65536) ∧
     ((t.sample.toNat : Nat) : Int) =
       ((sc 1 + sc 3) / 512 + 128) * 256 + ((sc 0 + sc 2) / 512 + 128) ∧
     t.out = s.out ++ [t.sample] ∧ t.port = s.port ∧ t.tick = .idle)

/-- R105: TICK does not read SCALED or SAMPLE, and never writes WAVE, FREQ, DUTY, VOL or CRUSH. -/
def Obligations.TickNeitherReadsNorKeepsLatches : Prop :=
  (∀ (s : State) (old : Eight Half) (m : Half),
    exec .tick { s with
      voices := s.voices.map (fun v x => { x with scaled := old.get v }), sample := m } =
      exec .tick s) ∧
  (∀ s : State, ∃ t, exec .tick s = .next t ∧ ∀ v : Fin 8,
    t.voice v = { s.voice v with phase := (t.voice v).phase, scaled := (t.voice v).scaled })

/-- R172: modulators never reach the output of the TICK they are evaluated in, only through their effect
on the carriers' phases: two states that agree on SEED and the carriers give the same sample and the
same carriers but for their phases. Carriers modulate nothing, and each carrier is modulated by its own
modulator alone: what TICK leaves in voice c depends on SEED, voice c and voice c+4 only. No voice
modulates a modulator: what TICK leaves in voice m depends on SEED and voice m only, and its phase
advances by its own FREQ alone. -/
def Obligations.ModulatorsNeverReachTheOutput : Prop :=
  ∀ s s' : State, s.seed = s'.seed →
    ∃ t t', exec .tick s = .next t ∧ exec .tick s' = .next t' ∧
      ((∀ c : Fin 8, c.val < 4 → s.voice c = s'.voice c) →
        t.sample = t'.sample ∧
        ∀ c : Fin 8, c.val < 4 → t.voice c = { t'.voice c with phase := (t.voice c).phase }) ∧
      (∀ c : Fin 8, (h : c.val < 4) → s.voice c = s'.voice c →
        s.voice ⟨c.val + 4, by omega⟩ = s'.voice ⟨c.val + 4, by omega⟩ →
        t.voice c = t'.voice c) ∧
      (∀ m : Fin 8, 4 ≤ m.val → s.voice m = s'.voice m → t.voice m = t'.voice m) ∧
      (∀ m : Fin 8, 4 ≤ m.val → (t.voice m).phase.toNat =
        ((s.voice m).phase.toNat + (s.voice m).freq.toNat / 4) % 65536)

/-- While the carriers' volumes are 0 every TICK returns 0x8080, the seed steps once per TICK, and the
phases stay where they are while every FREQ is below 4 and the modulators' volumes are 0
(70_reset_and_hazards.md section 1). -/
def Obligations.SilentCarriersGiveMidScale : Prop :=
  ∀ (k : Nat) (s : State), (∀ c : Fin 8, c.val < 4 → (s.voice c).vol = 0) →
    ∃ t, execAll (List.replicate k .tick) s = .next t ∧
      t.out = s.out ++ List.replicate k 0x8080 ∧
      t.seed = lfsrStep^[k] s.seed ∧
      ((∀ m : Fin 8, 4 ≤ m.val → (s.voice m).vol = 0) →
        (∀ v : Fin 8, (s.voice v).freq.toNat < 4) →
        ∀ v : Fin 8, (t.voice v).phase = (s.voice v).phase)

/-- The stages R103 lists, stepped one by one, are the command TICK: the noise step, the
eight waveform cases decoded from the tags in voice order, then modulation, advance, mix and latches.
The stepping is the model's (log 3); that it is the same TICK is this statement. -/
def Obligations.StagesOfTickAreTheTick : Prop :=
  ∀ s : State, Sys2Proof.core.run 9 (beginTick s) = exec .tick s

/-! ### The machine as a whole -/

/-- Every step from a state that meets the invariant leaves a state that meets it: the read-only latches
hold only what a TICK can put there (R36), and a TICK in progress stands as R103 says. That a TICK in
progress is a state of its own is the model's (log 3). -/
def Obligations.StepKeepsTheInvariant : Prop :=
  ∀ s t : State, s.Inv → step s = .next t → t.Inv

/-- The state after RESET meets the invariant and is between two commands. -/
def Obligations.ResetMeetsTheInvariant : Prop :=
  State.reset.Inv ∧ State.reset.tick = .idle ∧
  (∀ a : RegAddr, memRead State.reset a =
    if a = 0x40 then 0x0001 else if a = 0x42 then 0x8080 else 0x0000)

/-- Every instruction completes from every state and keeps the port. A command leaves nothing in flight:
between two commands before it, between two commands after it (60_exceptions.md section 1, which speaks
of the commands, and 10_state.md section 6). That a waveform tag is an instruction and completes in
stage 2 of a TICK is the model's form of 43_voice.md section 1 (log 3), and that it completes outside
stage 2 is the model's (log 4). -/
def Obligations.EveryInstructionCompletes : Prop :=
  ∀ (i : Instr) (s : State), ∃ t, exec i s = .next t ∧ t.port = s.port ∧
    (i.format = .cmd32 → s.tick = .idle → t.tick = .idle)
end

