-- ==== Sys2Proof/Laws/Arith.lean ====
section
/-! SUPPORT. The arithmetic of 00_scope.md R7 in the terms omega reads, and the ranges of a TICK's values
(43_voice.md R149, R150; 44_modulation_mix.md R175; 60_exceptions.md R202). -/

namespace Sys2Proof.Machine

@[simp] theorem shr_freqShift (v : Int) : shr v freqShift = v / 4 := rfl
@[simp] theorem shr_modShift (v : Int) : shr v modShift = v / 16 := rfl
@[simp] theorem shr_mixShift (v : Int) : shr v mixShift = v / 512 := rfl
@[simp] theorem shr_seven (v : Int) : shr v 7 = v / 128 := rfl
@[simp] theorem shr_eight (v : Int) : shr v 8 = v / 256 := rfl
@[simp] theorem polyT_eq (y : Int) : polyT y = y * y / 8192 := rfl
@[simp] theorem polyU_eq (y : Int) : polyU y = 98304 - y * y / 8192 := rfl

/-- The parabola in plain numbers (R122). -/
theorem poly_eq (y : Int) : poly y = y * (98304 - y * y / 8192) / 8388608 := rfl

theorem unsigned_nonneg {w : Nat} (b : BitVec w) : 0 ≤ unsigned b := by simp [unsigned]

theorem unsigned_half_lt (b : Half) : unsigned b < 65536 := by
  have := b.isLt
  simp only [unsigned]
  omega

theorem unsigned_byte_lt (b : BitVec 8) : unsigned b < 256 := by
  have := b.isLt
  simp only [unsigned]
  omega

/-- A field written with `u16` reads back as the residue (R7). -/
theorem toNat_u16 (v : Int) : (u16 v).toNat = (v % 65536).toNat := by
  simp [u16, BitVec.toNat_ofInt]

theorem unsigned_u16 (v : Int) : unsigned (u16 v) = v % 65536 := by
  rw [unsigned, toNat_u16]
  omega

theorem u16_congr {a b : Int} (h : a % 65536 = b % 65536) : u16 a = u16 b := by
  apply BitVec.eq_of_toNat_eq
  rw [toNat_u16, toNat_u16, h]

theorem u16_unsigned (b : Half) : u16 (unsigned b) = b := by
  apply BitVec.eq_of_toNat_eq
  have := b.isLt
  rw [toNat_u16, unsigned]
  omega

/-- Adding to a field already narrowed is adding before narrowing (R24: "mod 65536"). -/
theorem u16_unsigned_u16_add (a b : Int) : u16 (unsigned (u16 a) + b) = u16 (a + b) := by
  apply u16_congr
  rw [unsigned_u16]
  omega

/-- A signed value that fits 16 bits is read back from its pattern (R7). -/
theorem toInt_sext16 {v : Int} (h : -32768 ≤ v) (h' : v < 32768) : (sext16 v).toInt = v := by
  rw [sext16, BitVec.toInt_ofInt]
  rw [Int.bmod_def]
  norm_num
  split <;> omega

theorem clamp_range (v : Int) : byteRange (clamp v (-128) 127) := by
  unfold byteRange clamp
  omega

theorem clamp_of_range {v : Int} (h : -128 ≤ v) (h' : v ≤ 127) : clamp v (-128) 127 = v := by
  unfold clamp
  omega

/-- The signed reading of a residue lies in its range (R7). -/
theorem s8_range (v : Int) : byteRange (s8 v) := by
  unfold byteRange s8 signedResidue
  norm_num
  split <;> omega

theorem quicksin_range (x : Half) : byteRange (quicksin x) := clamp_range _

theorem noiseValue_range (s : Seed) : byteRange (noiseValue s) := by
  have := (s.extractLsb' 0 8).isLt
  unfold byteRange noiseValue unsigned
  omega

/-- The low byte of the seed, re-centered (R132). -/
theorem noiseValue_eq (s : Seed) : noiseValue s = (s.toNat % 256 : Nat) - 128 := by
  simp [noiseValue, unsigned]

theorem triangle_range (p : Half) : byteRange (triangle p) := by
  have := unsigned_nonneg p
  have := unsigned_half_lt p
  unfold byteRange triangle shr
  norm_num
  split <;> omega

theorem sawtooth_range (p : Half) : byteRange (sawtooth p) := by
  have := unsigned_nonneg p
  have := unsigned_half_lt p
  unfold byteRange sawtooth shr
  norm_num
  omega

theorem pulse_range (p d : Half) : byteRange (pulse p d) := by
  unfold byteRange pulse
  split <;> omega

theorem sine_range (p d : Half) : byteRange (sine p d) := by
  unfold sine
  split
  · exact quicksin_range p
  · simp [byteRange]

theorem absSine_range (p d : Half) : byteRange (absSine p d) := by
  unfold absSine
  split <;> exact quicksin_range _

theorem quarterSine_range (p : Half) : byteRange (quarterSine p) := by
  unfold quarterSine
  split
  · simp [byteRange]
  · exact quicksin_range p

theorem silence_range : byteRange silence := by simp [silence, byteRange]

/-- Every raw value is a signed byte (R140). -/
theorem wave_range (c : WaveCode) (p d : Half) {nz : Int} (h : byteRange nz) :
    byteRange (wave c p d nz) := by
  unfold wave
  split
  · exact triangle_range p
  · exact sawtooth_range p
  · exact pulse_range p d
  · exact h
  · exact sine_range p d
  · exact absSine_range p d
  · exact quarterSine_range p
  all_goals exact silence_range

/-- Every crushed value is a signed byte (R149). -/
theorem crush_range {raw : Int} (k : BitVec 4) (h : byteRange raw) : byteRange (crush raw k) := by
  unfold crush
  split
  · exact h
  · exact s8_range _

/-- Every scaled value fits its latch (R150). -/
theorem scale_range {cr : Int} (vol : BitVec 8) (h : byteRange cr) : scaledRange (scale cr vol) := by
  have h0 := unsigned_nonneg vol
  have h1 := unsigned_byte_lt vol
  unfold byteRange at h
  unfold scaledRange scale
  constructor <;> nlinarith

theorem rawOf_range (x : Voice) {nz : Int} (h : byteRange nz) : byteRange (rawOf x nz) :=
  wave_range _ _ _ h

theorem crushedOf_range (x : Voice) {nz : Int} (h : byteRange nz) : byteRange (crushedOf x nz) :=
  crush_range _ (rawOf_range x h)

theorem scaledOf_range (x : Voice) {nz : Int} (h : byteRange nz) : scaledRange (scaledOf x nz) :=
  scale_range _ (crushedOf_range x h)

/-- A mix byte lies in 0..254 (R175). -/
theorem channel_range {a b : Int} (ha : scaledRange a) (hb : scaledRange b) :
    0 ≤ channel (a + b) ∧ channel (a + b) ≤ 254 := by
  unfold scaledRange at ha hb
  unfold channel shr
  norm_num
  omega

/-- A sample of two bytes in 0..254 holds them unchanged (R176). -/
theorem mixSample_ok {sc : Eight Int} (h : ∀ v, scaledRange (sc.get v)) : sampleOk (mixSample sc) := by
  have hl := channel_range (h 0) (h 2)
  have hr := channel_range (h 1) (h 3)
  simp only [Eight.get] at hl hr
  unfold sampleOk mixSample
  rw [toNat_u16]
  simp only [leftByte, rightByte]
  omega

end Sys2Proof.Machine
end

