-- ==== Sys2Proof/Laws/Decode.lean ====
section
/-! SUPPORT. What the decoder reads from a word put together from its fields, and from each tag. -/

namespace Sys2Proof

@[simp] theorem opField_commandWord (op : BitVec 2) (rsv : BitVec 7) (a : RegAddr) (d : Half) :
    opField (commandWord op rsv a d) = op := by
  ext i hi
  simp only [opField, commandWord, BitVec.getElem_extractLsb', BitVec.getLsbD_append]
  have h1 : ¬ 30 + i < 16 := by omega
  have h2 : ¬ 30 + i - 16 < 7 := by omega
  have h3 : ¬ 30 + i - 16 - 7 < 7 := by omega
  simp [h1, h2, h3, show 30 + i - 16 - 7 - 7 = i by omega, hi]

@[simp] theorem rsvField_commandWord (op : BitVec 2) (rsv : BitVec 7) (a : RegAddr) (d : Half) :
    rsvField (commandWord op rsv a d) = rsv := by
  ext i hi
  simp only [rsvField, commandWord, BitVec.getElem_extractLsb', BitVec.getLsbD_append]
  have h1 : ¬ 23 + i < 16 := by omega
  have h2 : ¬ 23 + i - 16 < 7 := by omega
  simp [h1, h2, show 23 + i - 16 - 7 = i by omega, hi]

@[simp] theorem addrField_commandWord (op : BitVec 2) (rsv : BitVec 7) (a : RegAddr) (d : Half) :
    addrField (commandWord op rsv a d) = a := by
  ext i hi
  simp only [addrField, commandWord, BitVec.getElem_extractLsb', BitVec.getLsbD_append]
  have h1 : ¬ 16 + i < 16 := by omega
  simp [h1, hi]

@[simp] theorem dataField_commandWord (op : BitVec 2) (rsv : BitVec 7) (a : RegAddr) (d : Half) :
    dataField (commandWord op rsv a d) = d := by
  ext i hi
  simp only [dataField, commandWord, BitVec.getElem_extractLsb', BitVec.getLsbD_append]
  simp [hi]

/-- A word is its four fields: no bit of a command is dropped by the format (R70). -/
theorem commandWord_fields (w : Command) :
    commandWord (opField w) (rsvField w) (addrField w) (dataField w) = w := by
  apply BitVec.eq_of_getLsbD_eq
  intro i hi
  simp only [commandWord, opField, rsvField, addrField, dataField, BitVec.getLsbD_append,
    BitVec.getLsbD_extractLsb']
  split
  · simp [*]
  · split
    · rw [show 16 + (i - 16) = i by omega]
      simp [*]
    · split
      · rw [show 23 + (i - 16 - 7) = i by omega]
        simp [*]
      · rw [show 30 + (i - 16 - 7 - 7) = i by omega]
        simp [show i - 16 - 7 - 7 < 2 by omega]

/-- A command is decoded by its OP alone (R71, R75). -/
theorem decodeCommand_cases (w : Command) :
    (opField w = 0 ∧ decodeCommand w = .nop) ∨
    (opField w = 1 ∧ decodeCommand w = .rd (addrField w)) ∨
    (opField w = 2 ∧ decodeCommand w = .wr (addrField w) (dataField w)) ∨
    (opField w = 3 ∧ decodeCommand w = .tick) := by
  have h : ∀ op : BitVec 2, op = 0 ∨ op = 1 ∨ op = 2 ∨ op = 3 := by decide
  rcases h (opField w) with h | h | h | h <;> simp [decodeCommand, h]

/-- A tag 7..255 is Silence (R81, R148). -/
theorem decodeWave_silence {c : WaveCode} (h : 7 ≤ c.toNat) : decodeWave c = .waveSilence c := by
  unfold decodeWave
  split <;> first | omega | rfl

/-- The eight cases of a tag (R81). -/
theorem decodeWave_cases (c : WaveCode) :
    (c = 0 ∧ decodeWave c = .waveTri) ∨ (c = 1 ∧ decodeWave c = .waveSaw) ∨
    (c = 2 ∧ decodeWave c = .wavePulse) ∨ (c = 3 ∧ decodeWave c = .waveNoise) ∨
    (c = 4 ∧ decodeWave c = .waveSine) ∨ (c = 5 ∧ decodeWave c = .waveAbsSine) ∨
    (c = 6 ∧ decodeWave c = .waveQSine) ∨ (7 ≤ c.toNat ∧ decodeWave c = .waveSilence c) := by
  by_cases h : 7 ≤ c.toNat
  · simp [h, decodeWave_silence h]
  · obtain ⟨n, hn, rfl⟩ : ∃ n, n < 7 ∧ c = BitVec.ofNat 8 n := ⟨c.toNat, by omega, by simp⟩
    interval_cases n <;> decide

end Sys2Proof
end

