-- ==== Sys2Proof/Laws/Eight.lean ====
section
/-! SUPPORT. The laws of eight like things: reading after setting, and equality voice by voice. -/

namespace Sys2Proof.Machine

variable {α β : Type}

@[simp] theorem Eight.get_ofFn (f : Fin 8 → α) (v : Fin 8) : (Eight.ofFn f).get v = f v := by
  match v with
  | 0 | 1 | 2 | 3 | 4 | 5 | 6 | 7 => rfl

@[simp] theorem Eight.get_fill (a : α) (v : Fin 8) : (Eight.fill a).get v = a := by
  simp [Eight.fill]

@[simp] theorem Eight.get_map (e : Eight α) (f : Fin 8 → α → β) (v : Fin 8) :
    (e.map f).get v = f v (e.get v) := by
  simp [Eight.map]

theorem Eight.get_set (e : Eight α) (v u : Fin 8) (a : α) :
    (e.set v a).get u = if u = v then a else e.get u := by
  simp [Eight.set]

@[simp] theorem Eight.get_set_self (e : Eight α) (v : Fin 8) (a : α) : (e.set v a).get v = a := by
  simp [Eight.get_set]

theorem Eight.get_set_of_ne (e : Eight α) {v u : Fin 8} (h : u ≠ v) (a : α) :
    (e.set v a).get u = e.get u := by
  simp [Eight.get_set, h]

/-- Two families are equal when they agree at every voice. -/
theorem Eight.ext_get {e e' : Eight α} (h : ∀ v, e.get v = e'.get v) : e = e' := by
  cases e
  cases e'
  have h0 := h 0
  have h1 := h 1
  have h2 := h 2
  have h3 := h 3
  have h4 := h 4
  have h5 := h 5
  have h6 := h 6
  have h7 := h 7
  simp only [Eight.get] at h0 h1 h2 h3 h4 h5 h6 h7
  simp [h0, h1, h2, h3, h4, h5, h6, h7]

@[simp] theorem Eight.ofFn_get (e : Eight α) : (Eight.ofFn fun v => e.get v) = e :=
  Eight.ext_get fun v => by simp

@[simp] theorem Eight.set_get_self (e : Eight α) (v : Fin 8) : e.set v (e.get v) = e :=
  Eight.ext_get fun u => by
    by_cases h : u = v
    · simp [h]
    · simp [Eight.get_set_of_ne, h]

@[simp] theorem Eight.set_set (e : Eight α) (v : Fin 8) (a b : α) : (e.set v a).set v b = e.set v b :=
  Eight.ext_get fun u => by
    by_cases h : u = v
    · simp [h]
    · simp [Eight.get_set_of_ne, h]

end Sys2Proof.Machine
end

