-- ==== Sys2Proof/Laws/State.lean ====
section
/-! SUPPORT. One lemma per field per update of the state. -/

namespace Sys2Proof.Machine

variable (s : State) (r : Half) (v : Fin 8) (x : Voice) (n : Seed) (t : Tick) (p : List Event)

@[simp] theorem State.respond_voices : (s.respond r).voices = s.voices := rfl
@[simp] theorem State.respond_seed : (s.respond r).seed = s.seed := rfl
@[simp] theorem State.respond_sample : (s.respond r).sample = s.sample := rfl
@[simp] theorem State.respond_tick : (s.respond r).tick = s.tick := rfl
@[simp] theorem State.respond_port : (s.respond r).port = s.port := rfl
@[simp] theorem State.respond_out : (s.respond r).out = s.out ++ [r] := rfl
@[simp] theorem State.respond_voice : (s.respond r).voice v = s.voice v := rfl

@[simp] theorem State.setVoice_voices : (s.setVoice v x).voices = s.voices.set v x := rfl
@[simp] theorem State.setVoice_seed : (s.setVoice v x).seed = s.seed := rfl
@[simp] theorem State.setVoice_sample : (s.setVoice v x).sample = s.sample := rfl
@[simp] theorem State.setVoice_tick : (s.setVoice v x).tick = s.tick := rfl
@[simp] theorem State.setVoice_port : (s.setVoice v x).port = s.port := rfl
@[simp] theorem State.setVoice_out : (s.setVoice v x).out = s.out := rfl
@[simp] theorem State.setVoice_voice_self : (s.setVoice v x).voice v = x := by simp [State.voice]

theorem State.setVoice_voice (u : Fin 8) :
    (s.setVoice v x).voice u = if u = v then x else s.voice u := by
  simp [State.voice, Eight.get_set]

theorem State.setVoice_voice_of_ne {u : Fin 8} (h : u ≠ v) : (s.setVoice v x).voice u = s.voice u := by
  simp [State.setVoice_voice, h]

@[simp] theorem State.setVoice_voice_same : s.setVoice v (s.voice v) = s := by
  simp [State.setVoice, State.voice]

@[simp] theorem State.setSeed_voices : (s.setSeed n).voices = s.voices := rfl
@[simp] theorem State.setSeed_seed : (s.setSeed n).seed = n := rfl
@[simp] theorem State.setSeed_sample : (s.setSeed n).sample = s.sample := rfl
@[simp] theorem State.setSeed_tick : (s.setSeed n).tick = s.tick := rfl
@[simp] theorem State.setSeed_port : (s.setSeed n).port = s.port := rfl
@[simp] theorem State.setSeed_out : (s.setSeed n).out = s.out := rfl
@[simp] theorem State.setSeed_voice : (s.setSeed n).voice v = s.voice v := rfl

@[simp] theorem State.setTick_voices : (s.setTick t).voices = s.voices := rfl
@[simp] theorem State.setTick_seed : (s.setTick t).seed = s.seed := rfl
@[simp] theorem State.setTick_sample : (s.setTick t).sample = s.sample := rfl
@[simp] theorem State.setTick_tick : (s.setTick t).tick = t := rfl
@[simp] theorem State.setTick_port : (s.setTick t).port = s.port := rfl
@[simp] theorem State.setTick_out : (s.setTick t).out = s.out := rfl
@[simp] theorem State.setTick_voice : (s.setTick t).voice v = s.voice v := rfl
@[simp] theorem State.setTick_setTick (t' : Tick) : (s.setTick t).setTick t' = s.setTick t' := rfl

@[simp] theorem State.setPort_voices : (s.setPort p).voices = s.voices := rfl
@[simp] theorem State.setPort_seed : (s.setPort p).seed = s.seed := rfl
@[simp] theorem State.setPort_sample : (s.setPort p).sample = s.sample := rfl
@[simp] theorem State.setPort_tick : (s.setPort p).tick = s.tick := rfl
@[simp] theorem State.setPort_port : (s.setPort p).port = p := rfl
@[simp] theorem State.setPort_out : (s.setPort p).out = s.out := rfl
@[simp] theorem State.setPort_voice : (s.setPort p).voice v = s.voice v := rfl
@[simp] theorem State.setPort_setPort (q : List Event) : (s.setPort p).setPort q = s.setPort q := rfl

@[simp] theorem State.takeReset_voice : s.takeReset.voice v = Voice.reset := by
  simp [State.takeReset, State.reset, State.voice]
@[simp] theorem State.takeReset_seed : s.takeReset.seed = 1#32 := rfl
@[simp] theorem State.takeReset_sample : s.takeReset.sample = 0x8080#16 := rfl
@[simp] theorem State.takeReset_tick : s.takeReset.tick = .idle := rfl
@[simp] theorem State.takeReset_port : s.takeReset.port = s.port := rfl
@[simp] theorem State.takeReset_out : s.takeReset.out = s.out := rfl

@[simp] theorem mapNext_next (f : State → State) (s : State) : mapNext f (.next s) = .next (f s) := rfl

/-- Two states are equal when their registers, stage and port agree. -/
theorem State.ext_fields {s t : State} (hv : ∀ v, s.voice v = t.voice v) (hs : s.seed = t.seed)
    (hm : s.sample = t.sample) (ht : s.tick = t.tick) (hp : s.port = t.port) (ho : s.out = t.out) :
    s = t := by
  cases s
  cases t
  simp only [State.mk.injEq]
  exact ⟨Eight.ext_get hv, hs, hm, ht, hp, ho⟩

end Sys2Proof.Machine
end

