-- ==== Sys2Proof/Laws/Ops.lean ====
section
/-! SUPPORT. One lemma per shared operation: where an address leads, what a write can do, and what a
waveform case does to a state. -/

namespace Sys2Proof.Machine

/-- The eight slots of a voice block (R51). -/
theorem decodeAddr_voice (v f : Fin 8) :
    decodeAddr (BitVec.ofNat 7 (8 * v.val + f.val)) = voiceLoc v f.val := by
  revert v f
  decide

@[simp] theorem decodeAddr_seedLo : decodeAddr 0x40#7 = .seedLo := by decide
@[simp] theorem decodeAddr_seedHi : decodeAddr 0x41#7 = .seedHi := by decide
@[simp] theorem decodeAddr_sample : decodeAddr 0x42#7 = .sample := by decide

/-- The reserved end of the global block (R51, R55). -/
theorem decodeAddr_reserved {a : RegAddr} (h : 0x43 ≤ a.toNat) : decodeAddr a = .reserved := by
  obtain ⟨n, hn, rfl⟩ : ∃ n, n < 128 ∧ a = BitVec.ofNat 7 n := ⟨a.toNat, a.isLt, by simp⟩
  rw [BitVec.toNat_ofNat, Nat.mod_eq_of_lt hn] at h
  interval_cases n <;> decide

/-- Every address is a slot of a voice, one of the three global registers, or reserved (R51). -/
theorem addr_cases (a : RegAddr) :
    (∃ v f : Fin 8, a = BitVec.ofNat 7 (8 * v.val + f.val)) ∨ a = 0x40 ∨ a = 0x41 ∨ a = 0x42 ∨
    0x43 ≤ a.toNat := by
  by_cases h : a.toNat < 64
  · left
    refine ⟨⟨a.toNat / 8, by omega⟩, ⟨a.toNat % 8, by omega⟩, ?_⟩
    apply BitVec.eq_of_toNat_eq
    rw [BitVec.toNat_ofNat]
    have := a.isLt
    simp only
    omega
  · right
    by_cases h' : 0x43 ≤ a.toNat
    · simp [h']
    · obtain ⟨n, hn, rfl⟩ : ∃ n, n < 128 ∧ a = BitVec.ofNat 7 n := ⟨a.toNat, a.isLt, by simp⟩
      rw [BitVec.toNat_ofNat, Nat.mod_eq_of_lt hn] at h h'
      have h1 : n = 64 ∨ n = 65 ∨ n = 66 := by omega
      rcases h1 with rfl | rfl | rfl <;> decide

/-- The two halves of a seed make it up again (R58). -/
theorem seedHigh_append_seedLow (x : Seed) : seedHigh x ++ seedLow x = x := by
  apply BitVec.eq_of_getLsbD_eq
  intro i hi
  simp only [seedHigh, seedLow, BitVec.getLsbD_append, BitVec.getLsbD_extractLsb']
  split
  · simp [*]
  · rw [show 16 + (i - 16) = i by omega]
    simp [show i - 16 < 16 by omega]

@[simp] theorem seedLow_append (h l : Half) : seedLow (h ++ l) = l := by
  apply BitVec.eq_of_getLsbD_eq
  intro i hi
  have e : (h ++ l).getLsbD i = l.getLsbD i := by rw [BitVec.getLsbD_append]; simp [hi]
  simpa [seedLow, hi] using e

@[simp] theorem seedHigh_append (h l : Half) : seedHigh (h ++ l) = h := by
  apply BitVec.eq_of_getLsbD_eq
  intro i hi
  have e : (h ++ l).getLsbD (16 + i) = h.getLsbD i := by rw [BitVec.getLsbD_append]; simp
  simpa [seedHigh, hi] using e

/-- What a write can do: nothing, one voice field other than the latch, or one half of the seed (R54). -/
theorem memWrite_cases (s : State) (a : RegAddr) (d : Half) :
    memWrite s a d = s ∨
    (∃ v x, memWrite s a d = s.setVoice v x ∧ x.scaled = (s.voice v).scaled) ∨
    ((a = 0x40 ∨ a = 0x41) ∧ ∃ n, memWrite s a d = s.setSeed n) := by
  rcases addr_cases a with ⟨v, f, rfl⟩ | rfl | rfl | rfl | h
  · simp only [memWrite, decodeAddr_voice]
    match f with
    | 0 | 1 | 2 | 3 | 4 | 5 => exact .inr (.inl ⟨v, _, rfl, rfl⟩)
    | 6 | 7 => exact .inl rfl
  · exact .inr (.inr ⟨.inl rfl, _, rfl⟩)
  · exact .inr (.inr ⟨.inr rfl, _, rfl⟩)
  · exact .inl rfl
  · exact .inl (by simp [memWrite, decodeAddr_reserved h])

@[simp] theorem memWrite_sample (s : State) (a : RegAddr) (d : Half) :
    (memWrite s a d).sample = s.sample := by
  rcases memWrite_cases s a d with h | ⟨v, x, h, -⟩ | ⟨-, n, h⟩ <;> simp [h]

@[simp] theorem memWrite_tick (s : State) (a : RegAddr) (d : Half) :
    (memWrite s a d).tick = s.tick := by
  rcases memWrite_cases s a d with h | ⟨v, x, h, -⟩ | ⟨-, n, h⟩ <;> simp [h]

@[simp] theorem memWrite_port (s : State) (a : RegAddr) (d : Half) :
    (memWrite s a d).port = s.port := by
  rcases memWrite_cases s a d with h | ⟨v, x, h, -⟩ | ⟨-, n, h⟩ <;> simp [h]

@[simp] theorem memWrite_out (s : State) (a : RegAddr) (d : Half) :
    (memWrite s a d).out = s.out := by
  rcases memWrite_cases s a d with h | ⟨v, x, h, -⟩ | ⟨-, n, h⟩ <;> simp [h]

/-- The latches are read-only to the host (R55). -/
@[simp] theorem memWrite_scaled (s : State) (a : RegAddr) (d : Half) (v : Fin 8) :
    ((memWrite s a d).voice v).scaled = (s.voice v).scaled := by
  rcases memWrite_cases s a d with h | ⟨u, x, h, hx⟩ | ⟨-, n, h⟩
  · rw [h]
  · rw [h, State.setVoice_voice]
    split
    · next e => rw [hx, e]
    · rfl
  · simp [h]

/-- Inside stage 2 a waveform case sets the raw value of the voice under evaluation (R140). -/
theorem State.setRaw_evaluate {s : State} {v : Fin 8} {l : Locals} (h : s.tick = .evaluate v l)
    (f : Voice → Int → Int) :
    s.setRaw f = s.setTick (.evaluate v { l with raw := l.raw.set v (f (s.voice v) l.nz) }) := by
  unfold State.setRaw
  rw [h]

/-- Outside stage 2 it changes nothing (log 4). -/
theorem State.setRaw_of_not_evaluate {s : State} (h : ∀ v l, s.tick ≠ .evaluate v l)
    (f : Voice → Int → Int) : s.setRaw f = s := by
  unfold State.setRaw
  split
  · next v l e => exact absurd e (h v l)
  · rfl
  · rfl

/-- Whatever the stage, a waveform case touches the stage alone (R140). -/
theorem State.setRaw_cases (s : State) (f : Voice → Int → Int) :
    ∃ t, s.setRaw f = s.setTick t ∧ ∀ v l, s.tick = .evaluate v l →
      t = .evaluate v { l with raw := l.raw.set v (f (s.voice v) l.nz) } := by
  by_cases h : ∃ v l, s.tick = .evaluate v l
  · obtain ⟨v, l, h⟩ := h
    refine ⟨_, State.setRaw_evaluate h f, fun v' l' h' => ?_⟩
    cases h.symm.trans h'
    rfl
  · push Not at h
    exact ⟨s.tick, State.setRaw_of_not_evaluate h f, fun v l e => absurd e (h v l)⟩

end Sys2Proof.Machine
end

