-- ==== Sys2Proof/Laws/PerInstr.lean ====
section
/-! SUPPORT. Statements about every instruction as syntax, one lemma per constructor. -/

namespace Sys2Proof.Laws.CanonicalEncoding

/-- An instruction's word has the instruction's own format, and a command's word has RSV = 0 (R72, R76);
a tag that stands for Silence is none of the seven others (R81). -/
def Statement (i : Instr) : Prop :=
  i.wf = true →
    (∀ w, encode i = .cmd32 w → i.format = .cmd32 ∧ rsvField w = 0) ∧
    (∀ c, encode i = .wave8 c → i.format = .wave8 ∧ (i = .waveSilence c ↔ 7 ≤ c.toNat))

/-- The statement for every instruction: `encode` gives each constructor one word. -/
theorem of_encode (i : Instr) : Statement i := by
  cases i <;> simp [Statement, encode, Instr.format, Instr.wf]

theorem nop : Statement .nop := of_encode _

theorem rd (addr : RegAddr) : Statement (.rd addr) := of_encode _

theorem wr (addr : RegAddr) (data : Half) : Statement (.wr addr data) := of_encode _

theorem tick : Statement .tick := of_encode _

theorem waveTri : Statement .waveTri := of_encode _

theorem waveSaw : Statement .waveSaw := of_encode _

theorem wavePulse : Statement .wavePulse := of_encode _

theorem waveNoise : Statement .waveNoise := of_encode _

theorem waveSine : Statement .waveSine := of_encode _

theorem waveAbsSine : Statement .waveAbsSine := of_encode _

theorem waveQSine : Statement .waveQSine := of_encode _

theorem waveSilence (code : WaveCode) : Statement (.waveSilence code) := of_encode _

end Sys2Proof.Laws.CanonicalEncoding
end

