-- ==== Sys2Proof/Laws/Tick.lean ====
section
/-! SUPPORT. What TICK leaves in each field, and what each of its stages does (40_commands.md R103). -/

namespace Sys2Proof.Machine

@[simp] theorem Voice.movePhase_wave (x : Voice) (d : Int) : (x.movePhase d).wave = x.wave := rfl
@[simp] theorem Voice.movePhase_freq (x : Voice) (d : Int) : (x.movePhase d).freq = x.freq := rfl
@[simp] theorem Voice.movePhase_duty (x : Voice) (d : Int) : (x.movePhase d).duty = x.duty := rfl
@[simp] theorem Voice.movePhase_vol (x : Voice) (d : Int) : (x.movePhase d).vol = x.vol := rfl
@[simp] theorem Voice.movePhase_crush (x : Voice) (d : Int) : (x.movePhase d).crush = x.crush := rfl
@[simp] theorem Voice.movePhase_scaled (x : Voice) (d : Int) : (x.movePhase d).scaled = x.scaled := rfl
@[simp] theorem Voice.movePhase_phase (x : Voice) (d : Int) :
    (x.movePhase d).phase = u16 (unsigned x.phase + d) := rfl
@[simp] theorem Voice.movePhase_increment (x : Voice) (d : Int) :
    (x.movePhase d).increment = x.increment := rfl

/-- Two moves of a phase add up (R24, R106). -/
@[simp] theorem Voice.movePhase_movePhase (x : Voice) (d e : Int) :
    (x.movePhase d).movePhase e = x.movePhase (d + e) := by
  simp only [Voice.movePhase, u16_unsigned_u16_add, add_assoc]

@[simp] theorem Voice.movePhase_zero (x : Voice) : x.movePhase 0 = x := by
  simp [Voice.movePhase, u16_unsigned]

theorem modulateStage_get (sc : Eight Int) (vs : Eight Voice) (v : Fin 8) :
    (modulateStage sc vs).get v = (vs.get v).movePhase (modulation sc v) := by
  simp only [modulateStage, Eight.get_map]
  split
  · rfl
  · next h => simp [modulation, h]

theorem advanceStage_get (vs : Eight Voice) (v : Fin 8) :
    (advanceStage vs).get v = (vs.get v).movePhase (vs.get v).increment := by
  simp [advanceStage]

theorem latchStage_get (sc : Eight Int) (vs : Eight Voice) (v : Fin 8) :
    (latchStage sc vs).get v = { vs.get v with scaled := sext16 (sc.get v) } := by
  simp [latchStage]

section
variable (l : Locals) (s : State)

/-- A voice after stages 3 to 6: its phase moved by modulation and increment, its latch set. -/
theorem finishTick_voice (v : Fin 8) : (finishTick l s).voice v =
    { (s.voice v).movePhase (modulation l.sc v + (s.voice v).increment) with
      scaled := sext16 (l.sc.get v) } := by
  simp [finishTick, State.voice, State.respond, latchStage_get, advanceStage_get, modulateStage_get]

@[simp] theorem finishTick_seed : (finishTick l s).seed = s.seed := rfl
@[simp] theorem finishTick_sample : (finishTick l s).sample = mixSample l.sc := rfl
@[simp] theorem finishTick_tick : (finishTick l s).tick = .idle := rfl
@[simp] theorem finishTick_port : (finishTick l s).port = s.port := rfl
@[simp] theorem finishTick_out : (finishTick l s).out = s.out ++ [mixSample l.sc] := rfl

end

@[simp] theorem evaluateAll_nz (vs : Eight Voice) (nz : Int) : (evaluateAll vs nz).nz = nz := rfl

@[simp] theorem evaluateAll_raw (vs : Eight Voice) (nz : Int) (v : Fin 8) :
    (evaluateAll vs nz).raw.get v = rawOf (vs.get v) nz := by
  simp [evaluateAll]

@[simp] theorem evaluateAll_cr (vs : Eight Voice) (nz : Int) (v : Fin 8) :
    (evaluateAll vs nz).cr.get v = crushedOf (vs.get v) nz := by
  simp [evaluateAll]

@[simp] theorem evaluateAll_sc (vs : Eight Voice) (nz : Int) (v : Fin 8) :
    (evaluateAll vs nz).sc.get v = scaledOf (vs.get v) nz := by
  simp [evaluateAll]

/-- The noise value of the TICK taken from a state (R103 stage 1, R132). -/
def tickNoise (s : State) : Int := noiseValue (lfsrStep s.seed)

/-- The scaled values of the TICK taken from a state (R103 stage 2). -/
def tickScaled (s : State) : Eight Int := (evaluateAll s.voices (tickNoise s)).sc

theorem tickNoise_range (s : State) : byteRange (tickNoise s) := noiseValue_range _

theorem tickScaled_get (s : State) (v : Fin 8) :
    (tickScaled s).get v = scaledOf (s.voice v) (tickNoise s) := by
  simp [tickScaled, State.voice]

theorem tickScaled_range (s : State) (v : Fin 8) : scaledRange ((tickScaled s).get v) := by
  rw [tickScaled_get]
  exact scaledOf_range _ (tickNoise_range s)

/-- The state a TICK leaves. -/
def tickResult (s : State) : State :=
  finishTick (evaluateAll s.voices (tickNoise s)) (s.setSeed (lfsrStep s.seed))

/-- TICK completes from every state (R200). -/
theorem exec_tick (s : State) : exec .tick s = .next (tickResult s) := rfl

@[simp] theorem tickResult_seed (s : State) : (tickResult s).seed = lfsrStep s.seed := rfl
@[simp] theorem tickResult_sample (s : State) : (tickResult s).sample = mixSample (tickScaled s) := rfl
@[simp] theorem tickResult_tick (s : State) : (tickResult s).tick = .idle := rfl
@[simp] theorem tickResult_port (s : State) : (tickResult s).port = s.port := rfl
@[simp] theorem tickResult_out (s : State) :
    (tickResult s).out = s.out ++ [mixSample (tickScaled s)] := rfl

/-- A voice after a TICK (R103): phase, latch, and the five fields TICK never writes (R105). -/
theorem tickResult_voice (s : State) (v : Fin 8) : (tickResult s).voice v =
    { (s.voice v).movePhase (modulation (tickScaled s) v + (s.voice v).increment) with
      scaled := sext16 ((tickScaled s).get v) } := by
  rw [tickResult, finishTick_voice]
  rfl

/-- After a command nothing follows inside the step (R38). -/
theorem afterInstr_of_idle {s : State} (h : s.tick = .idle) : afterInstr s = s := by
  simp [afterInstr, h]

/-- After a waveform case the voice is closed and stage 2 moves on (R103). -/
theorem afterInstr_of_evaluate {s : State} {v : Fin 8} {l : Locals} (h : s.tick = .evaluate v l) :
    afterInstr s = s.setTick (Tick.after v (closeVoice v (s.voice v) l)) := by
  simp [afterInstr, h]

end Sys2Proof.Machine
end

