-- ==== Sys2Proof/Tests/Slice0.lean ====
section
/-! SUPPORT. Small tests, each with its expected value taken from the spec, and for every statement with
hypotheses a concrete state and operands that meet them. -/

namespace Sys2Proof.Tests

open Sys2Proof.Machine

/-- The next state of an outcome, if it has one. -/
def after (o : Host.Outcome State Fault Refusal) : Option State :=
  match o with
  | .next s => some s
  | .fault _ => none
  | .refused _ => none

/-- A voice from its six written fields. -/
def voiceOf (w : WaveCode) (p f d : Half) (vol : BitVec 8) (k : BitVec 4) : Voice :=
  ⟨w, p, f, d, vol, k, 0⟩

/-- The reset state with one voice replaced. -/
def withVoice (v : Fin 8) (x : Voice) : State := State.reset.setVoice v x

/-- Stage 2 of a TICK at voice `v`, with noise value `nz`. -/
def stage2 (v : Fin 8) (x : Voice) (nz : Int) : State :=
  (withVoice v x).setTick (.evaluate v (Locals.start nz))

/-- The raw value of voice `v` after an instruction. -/
def rawAfter (i : Instr) (v : Fin 8) (s : State) : Option Int :=
  match after (exec i s) with
  | some t =>
    match t.tick with
    | .evaluate _ l => some (l.raw.get v)
    | .idle => none
    | .finish _ => none
  | none => none

/-! ### Well-formedness: what the check refuses -/

theorem test_wf_refuses_silence_below_7 : (Instr.waveSilence 6).wf = false := by decide
theorem test_wf_accepts_silence_7_and_255 :
    (Instr.waveSilence 7).wf = true ∧ (Instr.waveSilence 255).wf = true := by decide

/-! ### Decoding, from words written out bit by bit (30_encoding.md R70, R75, R81) -/

theorem test_decode_nop :
    decodeCommand 0b00_0000000_0000000_0000000000000000 = .nop := by decide
theorem test_decode_rd :
    decodeCommand 0b01_0000000_1000010_0000000000000000 = .rd 0x42 := by decide
theorem test_decode_wr :
    decodeCommand 0b10_0000000_0011100_0001001000110100 = .wr 0x1C 0x1234 := by decide
theorem test_decode_tick :
    decodeCommand 0b11_0000000_0000000_0000000000000000 = .tick := by decide
theorem test_decode_ignores_rsv :
    decodeCommand 0b10_1111111_1111111_0001001000110100 = .wr 0x7F 0x1234 := by decide
theorem test_decode_waves :
    decodeWave 0b00000000 = .waveTri ∧ decodeWave 0b00000001 = .waveSaw ∧
    decodeWave 0b00000010 = .wavePulse ∧ decodeWave 0b00000011 = .waveNoise ∧
    decodeWave 0b00000100 = .waveSine ∧ decodeWave 0b00000101 = .waveAbsSine ∧
    decodeWave 0b00000110 = .waveQSine ∧ decodeWave 0b00000111 = .waveSilence 7 ∧
    decodeWave 0b10000000 = .waveSilence 0x80 := by decide
theorem test_table_rows_decode :
    decodeTableWord 32 0xC0000000 = some .tick ∧ decodeTableWord 8 0x06 = some .waveQSine ∧
    decodeTableWord 40 0 = none := by decide

/-! ### Register addresses (95_test_vectors.md section 2.2) -/

theorem test_addresses :
    decodeAddr 0x00 = .wave 0 ∧ decodeAddr 0x06 = .scaled 0 ∧ decodeAddr 0x07 = .reserved ∧
    decodeAddr 0x0C = .vol 1 ∧ decodeAddr 0x25 = .crush 4 ∧ decodeAddr 0x2E = .scaled 5 ∧
    decodeAddr 0x38 = .wave 7 ∧ decodeAddr 0x3F = .reserved ∧ decodeAddr 0x40 = .seedLo ∧
    decodeAddr 0x41 = .seedHi ∧ decodeAddr 0x42 = .sample ∧ decodeAddr 0x43 = .reserved ∧
    decodeAddr 0x7F = .reserved := by decide

/-! ### Commands (95_test_vectors.md section 2.3, section 8) -/

theorem test_nop_answers_0 : (after (exec .nop State.reset)).map State.out = some [0x0000] := by decide
theorem test_rd_seed_low_after_reset :
    (after (exec (.rd 0x40) State.reset)).map State.out = some [0x0001] := by decide
theorem test_rd_scaled_is_the_pattern :
    (after (exec (.rd 0x06)
      (withVoice 0 { Voice.reset with scaled := sext16 (-32640) }))).map State.out =
      some [0x8080] := by decide
theorem test_wr_vol_keeps_low_byte :
    (after (exec (.wr 0x1C 0x1234) State.reset)).map (fun t => (t.voice 3).vol) = some 0x34 := by decide
theorem test_wr_seed_low_keeps_high :
    (after (exec (.wr 0x40 0xBEEF) (State.reset.setSeed 0x00010000))).map State.seed =
      some 0x0001BEEF := by decide

/-- P1, first row. -/
theorem test_tick_from_reset :
    (after (exec .tick State.reset)).map (fun t => (t.out, t.seed)) =
      some ([0x8080], 0x00000002) := by decide
/-- P5, TICK 13: sample, next phase of voice 0 and its latch. -/
theorem test_tick_mixes_and_modulates :
    (after (exec .tick ((((withVoice 0 (voiceOf 4 0xA815 0xFFFF 0x8000 200 0)).setVoice 2
      (voiceOf 6 0x2000 0 0 128 0))).setVoice 4 (voiceOf 1 0 0 0 255 0)))).map
      (fun t => (t.out, (t.voice 0).phase, (t.voice 0).scaled)) =
      some ([0x806C], 0xE01C, 0xADF8) := by decide

/-! ### Waveforms (95_test_vectors.md section 5) -/

theorem test_tri_falls_after_the_plateau :
    rawAfter .waveTri 0 (stage2 0 (voiceOf 0 0x8080 0 0 0 0) 0) = some 126 := by decide
theorem test_tri_rises : rawAfter .waveTri 7 (stage2 7 (voiceOf 0 0x0080 0 0 0 0) 0) = some (-127) := by
  decide
theorem test_saw : rawAfter .waveSaw 3 (stage2 3 (voiceOf 1 0x4000 0 0 0 0) 0) = some (-64) := by decide
theorem test_pulse_at_the_duty :
    rawAfter .wavePulse 0 (stage2 0 (voiceOf 2 0x8000 0 0x8000 0 0) 0) = some 127 := by decide
theorem test_pulse_past_the_duty :
    rawAfter .wavePulse 0 (stage2 0 (voiceOf 2 0x8001 0 0x8000 0 0) 0) = some (-128) := by decide
theorem test_noise : rawAfter .waveNoise 5 (stage2 5 (voiceOf 3 9 0 7 0 0) (-126)) = some (-126) := by
  decide
theorem test_sine_upper_edge_outside :
    rawAfter .waveSine 0 (stage2 0 (voiceOf 4 65435 0 100 0 0) 0) = some 0 := by decide
theorem test_sine_upper_edge_inside :
    rawAfter .waveSine 0 (stage2 0 (voiceOf 4 65436 0 100 0 0) 0) = some (-2) := by decide
theorem test_abs_sine_mirrored :
    rawAfter .waveAbsSine 0 (stage2 0 (voiceOf 5 0x4000 0 0 0 0) 0) = some (-128) := by decide
theorem test_abs_sine_direct :
    rawAfter .waveAbsSine 0 (stage2 0 (voiceOf 5 0x4000 0 0x4001 0 0) 0) = some 127 := by decide
theorem test_quarter_sine_third_quarter :
    rawAfter .waveQSine 0 (stage2 0 (voiceOf 6 0xBFFF 0 0 0 0) 0) = some (-128) := by decide
theorem test_quarter_sine_second_quarter :
    rawAfter .waveQSine 0 (stage2 0 (voiceOf 6 0x4000 0 0 0 0) 0) = some 0 := by decide
theorem test_silence :
    rawAfter (.waveSilence 0xFF) 0 (stage2 0 (voiceOf 0xFF 0x4000 0 0 0 0) (-126)) = some 0 := by decide

/-! ### Functions (95_test_vectors.md sections 3, 4, 6, 7) -/

theorem test_lfsr_all_ones : lfsrStep 0xFFFFFFFF = 0xFFFFFFFE := by decide
theorem test_lfsr_deadbeef :
    lfsrStep 0xDEADBEEF = 0xBD5B7DDF ∧ noiseValue 0xBD5B7DDF = 95 := by decide
theorem test_quicksin_peak_and_floor :
    quicksin 16384 = 127 ∧ quicksin 32769 = -1 ∧ quicksin 7312 = 79 ∧ quicksin 0x9800 = -69 := by decide
theorem test_crush_row_minus_100 :
    crush (-100) 2 = -97 ∧ crush (-100) 6 = -65 ∧ crush (-100) 7 = -1 ∧ crush 127 8 = -1 := by decide
theorem test_channel_shifts_the_sum : channel (256 + 256) = 129 ∧ channel (-513) = 126 := by decide
theorem test_modulation_floor : shr (-17) modShift = -2 := by decide

/-! ### The assembler (95_test_vectors.md section 8) -/

theorem test_assemble_lines :
    assemble "wr v3.vol, 0x1234 ; narrow\nRD @0x7F\nWR V0.WAVE, sine\nSEED 0x80000000\nTICK" =
      some [0x801C1234, 0x407F0000, 0x80000004, 0x80418000, 0x80400000, 0xC0000000] := by decide
theorem test_assembler_refuses :
    assemble "WR V0.FREQ, 65536" = none ∧ assemble "RD V8.VOL" = none ∧ assemble "RD @128" = none ∧
    assemble "TICKS 0" = none := by decide

/-! ### Refusal -/

theorem test_collision_is_refused :
    after (step (State.reset.setPort [.collision 0xC0000000 0x00000000])) = none := by decide

/-! ### Witnesses: a state and operands that meet the hypotheses of each statement -/

theorem witness_DecodeOfEncodeIsTheInstruction :
    (Instr.wr 0x7F 0xFFFF).wf = true ∧ (Instr.waveSilence 7).wf = true := by decide
theorem witness_UnusedFieldsAreIgnored :
    opField 0x7F80FFFF = opField 0x40000000 ∧ opField 0x7F80FFFF = 1 ∧
    addrField 0x7F80FFFF = addrField 0x40000000 ∧
    opField 0xBFFF1234 = opField 0x807F1234 ∧ opField 0xBFFF1234 = 2 ∧
    addrField 0xBFFF1234 = addrField 0x807F1234 ∧
    dataField 0xBFFF1234 = dataField 0x807F1234 := by decide
theorem witness_StepRunsTheOldestCommand :
    (State.reset.setPort [.command 0xC0000000, .reset]).tick = .idle ∧
    (State.reset.setPort [.command 0xC0000000, .reset]).port = [.command 0xC0000000, .reset] := by decide
theorem witness_StepInsideTickRunsTheTag :
    (stage2 7 (voiceOf 6 0x2000 0 0 128 0) 5).tick = .evaluate 7 (Locals.start 5) ∧
    (stage2 0 (voiceOf 0 0 0 0 0 0) 5).tick = .evaluate 0 (Locals.start 5) := by decide
theorem witness_ResetSetsEveryRegister :
    ((withVoice 0 (voiceOf 1 1 1 1 1 1)).setPort [.reset, .command 0]).tick = .idle ∧
    ((withVoice 0 (voiceOf 1 1 1 1 1 1)).setPort [.reset, .command 0]).port =
      [.reset, .command 0] := by decide
theorem witness_NothingSentNothingChanges :
    (withVoice 0 (voiceOf 1 1 1 1 1 1)).tick = .idle ∧
    (withVoice 0 (voiceOf 1 1 1 1 1 1)).port = [] := by decide
theorem witness_OnlyConcurrentAccessIsRefused :
    ¬ (State.reset.tick = .idle ∧ ∃ a b rest, State.reset.port = .collision a b :: rest) ∧
    ((State.reset.setPort [.collision 0 1, .reset]).tick = .idle ∧
      ∃ a b rest, (State.reset.setPort [.collision 0 1, .reset]).port = .collision a b :: rest) := by
  refine ⟨fun ⟨_, _, _, _, h⟩ => ?_, rfl, _, _, _, rfl⟩
  cases h
theorem witness_SingleHostIsNeverRefused :
    (State.reset.setPort [.command 0xC0000000, .reset]).soleHost := by
  simp [State.soleHost, Event.isCollision]
theorem witness_InsideTickThePortIsNotSeen :
    (stage2 3 (voiceOf 0 0 0 0 0 0) 0).tick ≠ .idle ∧
    (State.reset.setTick (.finish (Locals.start 0))).tick ≠ .idle := by decide
theorem witness_CommandsRunInOrder : State.reset.tick = .idle := by decide
theorem witness_EachCommandIsAnsweredOnce :
    State.reset.tick = .idle ∧
    (∀ e ∈ [Event.command 0xC0000000, Event.reset, Event.command 0x40400000],
      e.isCollision = false) := by decide
theorem witness_ReadReturnsTheSelectedField :
    0x43 ≤ (0x43 : RegAddr).toNat ∧ 0x43 ≤ (0x7F : RegAddr).toNat ∧
    (8 * (7 : Fin 8).val + 7 = 0x3F) := by decide
theorem witness_WriteSetsTheSelectedField :
    0x43 ≤ (0x43 : RegAddr).toNat ∧ 0x43 ≤ (0x7F : RegAddr).toNat ∧
    ¬ 0x43 ≤ (0x42 : RegAddr).toNat := by decide
theorem witness_WriteLeavesOtherLocations : (0x41 : RegAddr) ≠ 0x40 := by decide
theorem witness_WriteThenReadReturnsMaskedData :
    ∀ a ∈ [(0x00 : RegAddr), 0x05, 0x3D, 0x40, 0x41],
      (a.toNat < 0x40 ∧ a.toNat % 8 ≤ 5 ∨ a.toNat = 0x40 ∨ a.toNat = 0x41) := by decide
theorem witness_ReadsAndWritesAreIdempotent : 4 ≤ (4 : Fin 8).val ∧ 4 ≤ (7 : Fin 8).val := by decide
theorem witness_SeedIsLoadedByHalves :
    (State.reset.setSeed 0x00010000).seed.toNat % 65536 = 0 := by decide
theorem witness_AssemblerEmitsCanonicalWords :
    (AsmStmt.wr (.voice 7 .crush) (.lit (-32768))).words = some [0x803D8000] ∧
    (0x803D8000 : Command) ∈ [(0x803D8000 : Command)] ∧ 8 ≤ 8 := by decide
theorem witness_PseudoInstructionsDoWhatTheyName : 1 ≤ 1 ∧
    (AsmStmt.ticks 1).instrs = some [.tick] := by decide
theorem witness_LfsrStepShiftsAndInjects : 0 < 31 ∧ 30 < 31 := by decide
theorem witness_LfsrStepIsABijection : (0x80000000 : Seed) ≠ 0 := by decide
theorem witness_OnlyTickAndSeedWritesChangeSeed :
    Instr.wr 0x42 0x1234 ≠ .tick ∧ (∀ d, Instr.wr 0x42 0x1234 ≠ .wr 0x40 d) ∧
    (∀ d, Instr.wr 0x42 0x1234 ≠ .wr 0x41 d) ∧ Instr.waveNoise ≠ .tick := by simp
theorem witness_ZeroSeedIsAbsorbing :
    ((withVoice 1 (voiceOf 3 0 0 0 1 0)).setSeed 0).seed = 0 ∧
    (((withVoice 1 (voiceOf 3 0 0 0 1 0)).setSeed 0).voice 1).wave = 3 ∧
    (((withVoice 1 (voiceOf 3 0 0 0 1 0)).setSeed 0).voice 1).crush = 0 := by decide
theorem witness_ParabolaSaturatesOnlyAtTheQuarter :
    -16384 ≤ (-16384 : Int) ∧ (-16384 : Int) ≤ 16384 ∧ (16384 : Int) ≤ 16384 := by decide
theorem witness_QuicksinSymmetries :
    (0 : Half).toNat ≤ 16384 ∧ (16384 : Half).toNat ≤ 16384 := by decide
theorem witness_QuicksinRisesAndFalls :
    (0 : Half).toNat ≤ (16384 : Half).toNat ∧ (16384 : Half).toNat ≤ 16384 ∧
    16384 ≤ (16384 : Half).toNat ∧ (49152 : Half).toNat ≤ 49152 ∧
    (16384 : Half).toNat ≤ (49152 : Half).toNat ∧ 49152 ≤ (49152 : Half).toNat ∧
    (49152 : Half).toNat ≤ (65535 : Half).toNat := by decide
theorem witness_WaveformsHaveNoSideEffects :
    Instr.waveNoise.format = .wave8 ∧
    (stage2 2 (voiceOf 3 0 0 0 0 0) (-128)).tick = .evaluate 2 (Locals.start (-128)) ∧
    byteRange (Locals.start (-128)).nz ∧ byteRange (Locals.start 127).nz ∧
    (∀ v l, State.reset.tick ≠ .evaluate v l) ∧
    (∀ v l, (State.reset.setTick (.finish (Locals.start 0))).tick ≠ .evaluate v l) := by
  refine ⟨by decide, by decide, by decide, by decide, fun _ _ h => ?_, fun _ _ h => ?_⟩ <;> cases h
theorem witness_TriangleRawValue :
    (stage2 0 (voiceOf 0 32767 0 0 0 0) 0).tick = .evaluate 0 (Locals.start 0) ∧
    ((32640 : Half).toNat ≥ 32640 ∧ (32895 : Half).toNat ≤ 32895) ∧ triangle 32767 = 127 ∧
    (127 : Half).toNat ≤ 127 ∧ triangle 65408 = -128 := by decide
theorem witness_SawtoothRawValue :
    (stage2 7 (voiceOf 1 0 0 0 0 0) 0).tick = .evaluate 7 (Locals.start 0) ∧
    (0 : Half).toNat ≤ (65535 : Half).toNat ∧ sawtooth 255 = -128 ∧ sawtooth 65280 = 127 := by decide
theorem witness_PulseRawValue :
    (stage2 0 (voiceOf 2 0 0 0 0 0) 0).tick = .evaluate 0 (Locals.start 0) ∧
    (65534 : Half) ≠ 65535 ∧ pulse 65535 65534 ≠ pulse 65535 (65534 + 1) := by decide
theorem witness_NoiseRawValue :
    (stage2 4 (voiceOf 3 0 0 0 0 0) 7).tick = .evaluate 4 (Locals.start 7) ∧
    ((withVoice 4 (voiceOf 3 0 0 0 9 0)).voice 4).wave = 3 ∧
    ((withVoice 4 (voiceOf 3 0 0 0 9 0)).voice 4).crush = 0 ∧
    (State.reset.setSeed 0).seed = 0 := by decide
theorem witness_SineRawValue :
    (stage2 1 (voiceOf 4 0 0 0 0 0) 0).tick = .evaluate 1 (Locals.start 0) ∧
    32768 ≤ (32768 : Half).toNat := by decide
theorem witness_AbsSineRawValue :
    (stage2 6 (voiceOf 5 0 0 0 0 0) 0).tick = .evaluate 6 (Locals.start 0) := by decide
theorem witness_QuarterSineRawValue :
    (stage2 0 (voiceOf 6 0 0 0 0 0) 0).tick = .evaluate 0 (Locals.start 0) ∧
    (16383 : Half).toNat < 16384 ∧ 32768 ≤ (49151 : Half).toNat ∧ (49151 : Half).toNat < 49152 ∧
    (0x4000 : Half).toNat / 16384 % 2 = 1 ∧ (0xFFFF : Half).toNat / 16384 % 2 = 1 := by decide
theorem witness_SilenceRawValue :
    (stage2 0 (voiceOf 7 0 0 0 0 0) 0).tick = .evaluate 0 (Locals.start 0) ∧
    (∀ k ∈ [(0 : BitVec 4), 1, 7, 8, 15], ∀ c ∈ [(7 : WaveCode), 255],
      7 ≤ ((withVoice 0 (voiceOf c 0 0 0 52 k)).voice 0).wave.toNat ∧
      (((withVoice 0 (voiceOf c 0 0 0 52 k)).voice 0).crush = 0 ∨
       1 ≤ ((withVoice 0 (voiceOf c 0 0 0 52 k)).voice 0).crush.toNat ∧
         ((withVoice 0 (voiceOf c 0 0 0 52 k)).voice 0).crush.toNat ≤ 7 ∨
       8 ≤ ((withVoice 0 (voiceOf c 0 0 0 52 k)).voice 0).crush.toNat)) := by decide
theorem witness_CrushForcesLowBits :
    byteRange (-128) ∧ byteRange 127 ∧ (0 : BitVec 4) = 0 ∧
    (1 ≤ (1 : BitVec 4).toNat ∧ (7 : BitVec 4).toNat ≤ 7) ∧ 8 ≤ (8 : BitVec 4).toNat ∧
    8 ≤ (15 : BitVec 4).toNat := by decide
theorem witness_NoArithmeticOverflows :
    byteRange (-128) ∧ byteRange 127 ∧
    ∀ v, scaledRange ((⟨-32640, 32385, -32640, 32385, 0, 0, 0, 0⟩ : Eight Int).get v) := by decide
theorem witness_MixShiftsTheSumOfTwoCarriers :
    (∀ v, scaledRange ((⟨1, -512, -1, 0, 0, 0, 0, 0⟩ : Eight Int).get v)) ∧
    ((⟨1, -512, -1, 0, 0, 0, 0, 0⟩ : Eight Int).get 0 +
      (⟨1, -512, -1, 0, 0, 0, 0, 0⟩ : Eight Int).get 2 = 0) ∧
    -512 ≤ ((⟨1, -512, -1, 0, 0, 0, 0, 0⟩ : Eight Int).get 1 +
      (⟨1, -512, -1, 0, 0, 0, 0, 0⟩ : Eight Int).get 3) ∧
    (∀ v, scaledRange ((⟨-1, 0, 0, 0, 0, 0, 0, 0⟩ : Eight Int).get v)) ∧
    ((⟨-1, 0, 0, 0, 0, 0, 0, 0⟩ : Eight Int).get 0 +
      (⟨-1, 0, 0, 0, 0, 0, 0, 0⟩ : Eight Int).get 2 < 0) := by decide
theorem witness_ModulationAndAdvanceCommute :
    (3 : Fin 8).val < 4 ∧ 4 ≤ (4 : Fin 8).val := by decide
theorem witness_TickGeneratesOneSample :
    (0 : Fin 8).val < 4 ∧ (3 : Fin 8).val < 4 ∧ 4 ≤ (7 : Fin 8).val := by decide
theorem witness_ModulatorsNeverReachTheOutput :
    (withVoice 4 (voiceOf 1 0 0 0 255 0)).seed = State.reset.seed ∧
    (∀ c : Fin 8, c.val < 4 → (withVoice 4 (voiceOf 1 0 0 0 255 0)).voice c = State.reset.voice c) ∧
    (∀ m : Fin 8, 4 ≤ m.val →
      (withVoice 3 (voiceOf 1 0 0 0 255 0)).voice m = State.reset.voice m) ∧
    (withVoice 0 (voiceOf 1 0 0 0 255 0)).voice 3 = State.reset.voice 3 ∧
    (withVoice 0 (voiceOf 1 0 0 0 255 0)).voice 7 = State.reset.voice 7 := by decide
theorem witness_SilentCarriersGiveMidScale :
    (∀ c : Fin 8, c.val < 4 → ((withVoice 0 (voiceOf 2 5 3 0 0 9)).voice c).vol = 0) ∧
    (∀ m : Fin 8, 4 ≤ m.val → ((withVoice 0 (voiceOf 2 5 3 0 0 9)).voice m).vol = 0) ∧
    (∀ v : Fin 8, ((withVoice 0 (voiceOf 2 5 3 0 0 9)).voice v).freq.toNat < 4) := by decide
theorem witness_StepKeepsTheInvariant :
    (beginTick State.reset).Inv ∧ ∃ t, step (beginTick State.reset) = .next t := by
  refine ⟨⟨by decide, by decide, rfl, ?_⟩, _, rfl⟩
  intro u h
  exact absurd h (by simp)
theorem witness_EveryInstructionCompletes :
    (Instr.rd 0x43).format = .cmd32 ∧ State.reset.tick = .idle := by decide

end Sys2Proof.Tests
end

section
/-! SUPPORT. The memory map slot by slot (20_memory.md R51 to R58): a voice block is eight slots that a
host reads and writes one at a time, and the laws that tie a write to a read hold slot by slot. -/

namespace Sys2Proof.Machine

/-- The eight slots of a voice block as the host reads them (R51, R53). -/
def Voice.readSlot (x : Voice) (f : Fin 8) : Half :=
  match f with
  | 0 => zext16 x.wave
  | 1 => x.phase
  | 2 => x.freq
  | 3 => x.duty
  | 4 => zext16 x.vol
  | 5 => zext16 x.crush
  | 6 => x.scaled
  | 7 => 0x0000

/-- A voice after the host has written one slot of its block (R54); the latch and the reserved slot
take no write (R55). -/
def Voice.writeSlot (x : Voice) (f : Fin 8) (d : Half) : Voice :=
  match f with
  | 0 => { x with wave := d.extractLsb' 0 8 }
  | 1 => { x with phase := d }
  | 2 => { x with freq := d }
  | 3 => { x with duty := d }
  | 4 => { x with vol := d.extractLsb' 0 8 }
  | 5 => { x with crush := d.extractLsb' 0 4 }
  | 6 => x
  | 7 => x

/-- The address of slot `f` of voice `v` (R51). -/
abbrev slotAddr (v f : Fin 8) : RegAddr := BitVec.ofNat 7 (8 * v.val + f.val)

theorem toNat_slotAddr (v f : Fin 8) : (slotAddr v f).toNat = 8 * v.val + f.val := by
  rw [BitVec.toNat_ofNat]
  omega

theorem toNat_slotAddr_lt (v f : Fin 8) : (slotAddr v f).toNat < 0x40 := by
  rw [toNat_slotAddr]
  omega

theorem toNat_slotAddr_mod (v f : Fin 8) : (slotAddr v f).toNat % 8 = f.val := by
  rw [toNat_slotAddr]
  omega

/-! ### Fields as numbers, and narrow fields as masks -/

theorem zext16_eq_ofNat {w : Nat} (b : BitVec w) : zext16 b = BitVec.ofNat 16 b.toNat :=
  (BitVec.ofNat_toNat 16 b).symm

/-- The low bits of the data, as a number (R54). -/
theorem extractLsb'_zero_eq_ofNat (d : Half) (n : Nat) : d.extractLsb' 0 n = BitVec.ofNat n d.toNat :=
  rfl

theorem toNat_zext16_lowBits (d : Half) {n : Nat} (h : n ≤ 16) :
    (zext16 (d.extractLsb' 0 n)).toNat = d.toNat % 2 ^ n := by
  have hlt : d.toNat % 2 ^ n < 2 ^ 16 :=
    (Nat.mod_lt _ (Nat.two_pow_pos n)).trans_le (Nat.pow_le_pow_right (by decide) h)
  rw [zext16, BitVec.toNat_setWidth, extractLsb'_zero_eq_ofNat, BitVec.toNat_ofNat,
    Nat.mod_eq_of_lt hlt]

/-- An 8-bit field keeps the low byte of the data (R56). -/
theorem zext16_lowByte (d : Half) : zext16 (d.extractLsb' 0 8) = d &&& 0x00FF := by
  apply BitVec.eq_of_toNat_eq
  rw [toNat_zext16_lowBits d (by decide), BitVec.toNat_and]
  exact (Nat.and_two_pow_sub_one_eq_mod d.toNat 8).symm

/-- A 4-bit field keeps the low four bits of the data (R56). -/
theorem zext16_lowNibble (d : Half) : zext16 (d.extractLsb' 0 4) = d &&& 0x000F := by
  apply BitVec.eq_of_toNat_eq
  rw [toNat_zext16_lowBits d (by decide), BitVec.toNat_and]
  exact (Nat.and_two_pow_sub_one_eq_mod d.toNat 4).symm

/-- Writing back what a narrow field reads as restores it (R54). -/
theorem extractLsb'_zext16 {w : Nat} (b : BitVec w) (h : w ≤ 16) : (zext16 b).extractLsb' 0 w = b := by
  have hlt : b.toNat < 2 ^ 16 := b.isLt.trans_le (Nat.pow_le_pow_right (by decide) h)
  rw [extractLsb'_zero_eq_ofNat, zext16, BitVec.toNat_setWidth, Nat.mod_eq_of_lt hlt,
    BitVec.ofNat_toNat, BitVec.setWidth_eq]

theorem toNat_seedLow (x : Seed) : (seedLow x).toNat = x.toNat % 65536 := by
  simp [seedLow]

theorem toNat_seedHigh (x : Seed) : (seedHigh x).toNat = x.toNat / 65536 := by
  have := x.isLt
  rw [seedHigh, BitVec.extractLsb'_toNat, Nat.shiftRight_eq_div_pow]
  omega

/-- A seed put together from two halves, as a number (R58). -/
theorem half_append_eq_ofNat (h l : Half) : h ++ l = BitVec.ofNat 32 (h.toNat * 65536 + l.toNat) := by
  apply BitVec.eq_of_toNat_eq
  have hh := h.isLt
  have hl := l.isLt
  rw [BitVec.toNat_append, ← Nat.shiftLeft_add_eq_or_of_lt hl, Nat.shiftLeft_eq, BitVec.toNat_ofNat]
  omega

/-! ### What a read returns and what a write leaves, location by location -/

theorem memRead_slotAddr (s : State) (v f : Fin 8) :
    memRead s (slotAddr v f) = (s.voice v).readSlot f := by
  rw [memRead, decodeAddr_voice]
  match f with
  | 0 | 1 | 2 | 3 | 4 | 5 | 6 | 7 => rfl

@[simp] theorem memRead_seedLo (s : State) : memRead s 0x40#7 = seedLow s.seed := rfl
@[simp] theorem memRead_seedHi (s : State) : memRead s 0x41#7 = seedHigh s.seed := rfl
@[simp] theorem memRead_sampleAddr (s : State) : memRead s 0x42#7 = s.sample := rfl

/-- Reserved addresses read as zero (R55). -/
theorem memRead_reserved (s : State) {a : RegAddr} (h : 0x43 ≤ a.toNat) : memRead s a = 0x0000 := by
  simp [memRead, decodeAddr_reserved h]

theorem memWrite_slotAddr (s : State) (v f : Fin 8) (d : Half) :
    memWrite s (slotAddr v f) d = s.setVoice v ((s.voice v).writeSlot f d) := by
  rw [memWrite, decodeAddr_voice]
  match f with
  | 0 | 1 | 2 | 3 | 4 | 5 => rfl
  | 6 | 7 => exact (State.setVoice_voice_same s v).symm

@[simp] theorem memWrite_seedLo (s : State) (d : Half) :
    memWrite s 0x40#7 d = s.setSeed (seedHigh s.seed ++ d) := rfl
@[simp] theorem memWrite_seedHi (s : State) (d : Half) :
    memWrite s 0x41#7 d = s.setSeed (d ++ seedLow s.seed) := rfl
@[simp] theorem memWrite_sampleAddr (s : State) (d : Half) : memWrite s 0x42#7 d = s := rfl

/-- Writes to reserved addresses are ignored (R55). -/
theorem memWrite_reserved (s : State) {a : RegAddr} (h : 0x43 ≤ a.toNat) (d : Half) :
    memWrite s a d = s := by
  simp [memWrite, decodeAddr_reserved h]

@[simp] theorem State.setSeed_seed_same (s : State) : s.setSeed s.seed = s := rfl

/-! ### The laws between reads and writes -/

theorem Voice.writeSlot_readSlot (x : Voice) (f : Fin 8) : x.writeSlot f (x.readSlot f) = x := by
  match f with
  | 0 | 4 | 5 => simp [Voice.writeSlot, Voice.readSlot, extractLsb'_zext16]
  | 1 | 2 | 3 | 6 | 7 => rfl

/-- A slot the host may write reads back the data masked to the field's width (R56). -/
theorem Voice.readSlot_writeSlot (x : Voice) (f : Fin 8) (d : Half) (h : f.val ≤ 5) :
    (x.writeSlot f d).readSlot f =
      if f.val = 0 ∨ f.val = 4 then d &&& 0x00FF else if f.val = 5 then d &&& 0x000F else d := by
  match f with
  | 0 | 4 => exact zext16_lowByte d
  | 5 => exact zext16_lowNibble d
  | 1 | 2 | 3 => rfl
  | 6 | 7 => exact absurd h (by decide)

/-- Writing the value a location holds changes nothing, at every address (R54). -/
theorem memWrite_memRead (s : State) (a : RegAddr) : memWrite s a (memRead s a) = s := by
  rcases addr_cases a with ⟨v, f, rfl⟩ | rfl | rfl | rfl | h
  · rw [memRead_slotAddr, memWrite_slotAddr, Voice.writeSlot_readSlot, State.setVoice_voice_same]
  · simp [seedHigh_append_seedLow]
  · simp [seedHigh_append_seedLow]
  · rfl
  · exact memWrite_reserved s h _

theorem memRead_memWrite_slotAddr (s : State) (v f : Fin 8) (d : Half) :
    memRead (memWrite s (slotAddr v f) d) (slotAddr v f) = ((s.voice v).writeSlot f d).readSlot f := by
  rw [memWrite_slotAddr, memRead_slotAddr, State.setVoice_voice_self]

/-! ### RD and WR -/

/-- RD answers the location and changes nothing else (R101). -/
theorem exec_rd_eq (s : State) (a : RegAddr) : exec (.rd a) s = .next (s.respond (memRead s a)) := rfl

/-- WR writes the location and answers 0 (R102). -/
theorem exec_wr_eq (s : State) (a : RegAddr) (d : Half) :
    exec (.wr a d) s = .next ((memWrite s a d).respond 0x0000) := rfl

theorem exec_rd_slotAddr (s : State) (v f : Fin 8) :
    exec (.rd (slotAddr v f)) s = .next (s.respond ((s.voice v).readSlot f)) := by
  rw [exec_rd_eq, memRead_slotAddr]

theorem exec_wr_slotAddr (s : State) (v f : Fin 8) (d : Half) :
    exec (.wr (slotAddr v f) d) s =
      .next ((s.setVoice v ((s.voice v).writeSlot f d)).respond 0x0000) := by
  rw [exec_wr_eq, memWrite_slotAddr]

/-- A write to a slot that takes none answers 0 and changes nothing (R55). -/
theorem exec_wr_slotAddr_readOnly (s : State) (v f : Fin 8) (d : Half) (h : 6 ≤ f.val) :
    exec (.wr (slotAddr v f) d) s = .next (s.respond 0x0000) := by
  have unchanged : (s.voice v).writeSlot f d = s.voice v := by
    match f with
    | 6 | 7 => rfl
    | 0 | 1 | 2 | 3 | 4 | 5 => exact absurd h (by decide)
  rw [exec_wr_slotAddr, unchanged, State.setVoice_voice_same]

/-- WR then RD of one location: the two responses, in command order (R78). -/
theorem execAll_wr_rd_out (s : State) (a : RegAddr) (d : Half) :
    ∃ t, execAll [.wr a d, .rd a] s = .next t ∧
      t.out = s.out ++ [0x0000, memRead (memWrite s a d) a] := by
  have run : execAll [.wr a d, .rd a] s =
      .next (((memWrite s a d).respond 0x0000).respond (memRead (memWrite s a d) a)) := rfl
  exact ⟨_, run, by simp⟩

end Sys2Proof.Machine
end

section
/-! The statements of 20_memory.md about RD and WR. -/

namespace Sys2Proof.Machine

/-- Settles O16: slot by slot, and the three global registers with the seed halves as numbers. -/
theorem readReturnsTheSelectedField : Obligations.ReadReturnsTheSelectedField := by
  intro s
  refine ⟨fun v => ?_, ?_, ?_, rfl, fun a h => ?_⟩
  · have read (f : Fin 8) := exec_rd_slotAddr s v f
    simp only [← zext16_eq_ofNat]
    exact ⟨read 0, read 1, read 2, read 3, read 4, read 5, read 6, read 7⟩
  · simp [exec_rd_eq, ← toNat_seedLow]
  · simp [exec_rd_eq, ← toNat_seedHigh]
  · rw [exec_rd_eq, memRead_reserved s h]

/-- Settles O17: slot by slot, the seed halves as numbers, and the write-back law. -/
theorem writeSetsTheSelectedField : Obligations.WriteSetsTheSelectedField := by
  intro s d
  refine ⟨fun v => ?_, ?_, ?_, rfl, fun a h => ?_, fun a => ?_⟩
  · have write (f : Fin 8) := exec_wr_slotAddr s v f d
    have ignore (f : Fin 8) (h : 6 ≤ f.val) := exec_wr_slotAddr_readOnly s v f d h
    exact ⟨write 0, write 1, write 2, write 3, write 4, write 5, ignore 6 (by decide),
      ignore 7 (by decide)⟩
  · simp [exec_wr_eq, half_append_eq_ofNat, toNat_seedHigh]
  · simp [exec_wr_eq, half_append_eq_ofNat, toNat_seedLow]
  · rw [exec_wr_eq, memWrite_reserved s h]
  · rw [exec_wr_eq, memWrite_memRead]

/-- Settles O19: the seed halves hold all 16 bits, and a voice slot masks the data to its width. -/
theorem writeThenReadReturnsMaskedData : Obligations.WriteThenReadReturnsMaskedData := by
  intro s a d h
  obtain ⟨t, run, out⟩ := execAll_wr_rd_out s a d
  refine ⟨t, run, ?_⟩
  rw [out]
  rcases addr_cases a with ⟨v, f, rfl⟩ | rfl | rfl | rfl | reserved
  · have below := toNat_slotAddr_lt v f
    have field := toNat_slotAddr_mod v f
    have writable : f.val ≤ 5 := by
      rw [toNat_slotAddr] at h
      omega
    rw [memRead_memWrite_slotAddr, Voice.readSlot_writeSlot _ _ _ writable]
    simp only [below, field, true_and]
  · simp
  · simp
  · exact absurd h (by decide)
  · exact absurd h (by omega)

end Sys2Proof.Machine
end

section
/-! SUPPORT. What the decoder answers for a command and for a tag (30_encoding.md R71 to R77, R81), and the
canonical words put together by shifts (R70, R76). -/

namespace Sys2Proof

/-! ### Decoding by OP alone -/

theorem decodeCommand_of_op_zero {w : Command} (h : opField w = 0) : decodeCommand w = .nop := by
  simp [decodeCommand, h]

theorem decodeCommand_of_op_one {w : Command} (h : opField w = 1) :
    decodeCommand w = .rd (addrField w) := by
  simp [decodeCommand, h]

theorem decodeCommand_of_op_two {w : Command} (h : opField w = 2) :
    decodeCommand w = .wr (addrField w) (dataField w) := by
  simp [decodeCommand, h]

theorem decodeCommand_of_op_three {w : Command} (h : opField w = 3) : decodeCommand w = .tick := by
  simp [decodeCommand, h]

/-- Only the fields a command uses are read: ADDR by RD and WR, DATA by WR (R72). -/
theorem decodeCommand_congr {w w' : Command} (op : opField w = opField w')
    (addr : (opField w = 1 ∨ opField w = 2) → addrField w = addrField w')
    (data : opField w = 2 → dataField w = dataField w') : decodeCommand w = decodeCommand w' := by
  rcases decodeCommand_cases w with ⟨h, e⟩ | ⟨h, e⟩ | ⟨h, e⟩ | ⟨h, e⟩
  · rw [e, decodeCommand_of_op_zero (op ▸ h)]
  · rw [e, decodeCommand_of_op_one (op ▸ h), addr (.inl h)]
  · rw [e, decodeCommand_of_op_two (op ▸ h), addr (.inr h), data h]
  · rw [e, decodeCommand_of_op_three (op ▸ h)]

/-! ### The canonical words -/

/-- A word with RSV = 0 is the OR of its other three fields, each shifted to its place (R70, R76). -/
theorem commandWord_rsv_zero (op : BitVec 2) (a : RegAddr) (d : Half) :
    commandWord op 0 a d =
      op.setWidth 32 <<< 30 ||| a.setWidth 32 <<< 16 ||| d.setWidth 32 := by
  apply BitVec.eq_of_getLsbD_eq
  intro i hi
  have data (h : 16 ≤ i) : d.getLsbD i = false := BitVec.getLsbD_of_ge d i h
  have addr (h : 23 ≤ i) : a.getLsbD (i - 16) = false := BitVec.getLsbD_of_ge a _ (by omega)
  simp only [commandWord, BitVec.getLsbD_append, BitVec.getLsbD_or, BitVec.getLsbD_shiftLeft,
    BitVec.getLsbD_setWidth]
  by_cases h16 : i < 16
  · simp [h16, hi, show i < 30 by omega]
  by_cases h23 : i - 16 < 7
  · simp [h16, h23, hi, data (by omega), show i < 30 by omega, show i - 16 < 32 by omega]
  by_cases h30 : i - 16 - 7 < 7
  · simp [h16, h23, h30, data (by omega), addr (by omega), show i < 30 by omega]
  · simp [h16, h23, h30, hi, data (by omega), addr (by omega), show ¬ i < 30 by omega,
      show i - 16 - 7 - 7 = i - 30 by omega, show i - 30 < 32 by omega]

/-- A command is encoded as one word: RSV is 0, and it is decoded as the command (R72, R76, R77). -/
theorem encode_command {i : Instr} (h : i.format = .cmd32) :
    ∃ w, encode i = .cmd32 w ∧ rsvField w = 0 ∧ decodeCommand w = i := by
  cases i with
  | nop => exact ⟨_, rfl, by simp, decodeCommand_of_op_zero (by simp)⟩
  | rd a => exact ⟨_, rfl, by simp, by simp [decodeCommand_of_op_one]⟩
  | wr a d => exact ⟨_, rfl, by simp, by simp [decodeCommand_of_op_two]⟩
  | tick => exact ⟨_, rfl, by simp, decodeCommand_of_op_three (by simp)⟩
  | waveTri | waveSaw | wavePulse | waveNoise | waveSine | waveAbsSine | waveQSine
  | waveSilence _ => cases h

theorem format_decodeCommand (w : Command) : (decodeCommand w).format = .cmd32 := by
  rcases decodeCommand_cases w with ⟨-, e⟩ | ⟨-, e⟩ | ⟨-, e⟩ | ⟨-, e⟩ <;> rw [e] <;> rfl

theorem wf_decodeCommand (w : Command) : (decodeCommand w).wf = true := by
  rcases decodeCommand_cases w with ⟨-, e⟩ | ⟨-, e⟩ | ⟨-, e⟩ | ⟨-, e⟩ <;> rw [e] <;> rfl

/-! ### What the decoder answers for a tag -/

theorem format_decodeWave (c : WaveCode) : (decodeWave c).format = .wave8 := by
  rcases decodeWave_cases c with
    ⟨-, e⟩ | ⟨-, e⟩ | ⟨-, e⟩ | ⟨-, e⟩ | ⟨-, e⟩ | ⟨-, e⟩ | ⟨-, e⟩ | ⟨-, e⟩ <;> rw [e] <;> rfl

/-- No tag below 7 is read as Silence (R81). -/
theorem wf_decodeWave (c : WaveCode) : (decodeWave c).wf = true := by
  rcases decodeWave_cases c with
    ⟨-, e⟩ | ⟨-, e⟩ | ⟨-, e⟩ | ⟨-, e⟩ | ⟨-, e⟩ | ⟨-, e⟩ | ⟨-, e⟩ | ⟨silence, e⟩ <;>
    simp only [e, Instr.wf]
  exact decide_eq_true silence

end Sys2Proof
end

section
/-! SUPPORT. The opcode table as a partition (30_encoding.md R75, R77, R81): each row stands for a span of
consecutive words of its format, two rows never meet, and the decoder's case has a row. -/

namespace Sys2Proof

/-- How many bits a word of the format has (R70, R81). -/
def Format.width : Format → Nat
  | .cmd32 => 32
  | .wave8 => 8

/-- The format a word is written in (R70, R81). -/
def CodeWord.format : CodeWord → Format
  | .cmd32 _ => .cmd32
  | .wave8 _ => .wave8

/-- The word read as a number. -/
def CodeWord.number : CodeWord → Nat
  | .cmd32 w => w.toNat
  | .wave8 c => c.toNat

theorem CodeWord.number_lt (cw : CodeWord) : cw.number < 2 ^ cw.format.width := by
  match cw with
  | .cmd32 w => exact w.isLt
  | .wave8 c => exact c.isLt

theorem format_decode (cw : CodeWord) : (decode cw).format = cw.format := by
  match cw with
  | .cmd32 w => exact format_decodeCommand w
  | .wave8 c => exact format_decodeWave c

theorem wf_decode (cw : CodeWord) : (decode cw).wf = true := by
  match cw with
  | .cmd32 w => exact wf_decodeCommand w
  | .wave8 c => exact wf_decodeWave c

/-! ### A mask of high bits selects a span -/

/-- A mask of all bits from `k` up keeps the multiple of `2^k` below the word. -/
theorem and_highMask {n w k : Nat} (hn : n < 2 ^ w) (hk : k ≤ w) :
    n &&& (2 ^ w - 2 ^ k) = n / 2 ^ k * 2 ^ k := by
  have mask : 2 ^ w - 2 ^ k = (2 ^ (w - k) - 1) <<< k := by
    rw [Nat.shiftLeft_eq, Nat.sub_mul, ← Nat.pow_add, Nat.sub_add_cancel hk, Nat.one_mul]
  have quotient : n / 2 ^ k < 2 ^ (w - k) := by
    rw [Nat.div_lt_iff_lt_mul (Nat.two_pow_pos k), ← Nat.pow_add, Nat.sub_add_cancel hk]
    exact hn
  have shifted : n &&& (2 ^ (w - k) - 1) <<< k = (n >>> k &&& (2 ^ (w - k) - 1)) <<< k := by
    apply Nat.eq_of_testBit_eq
    intro i
    by_cases h : k ≤ i <;> simp [h, Bool.and_comm]
  rw [mask, shifted, Nat.and_two_pow_sub_one_eq_mod, Nat.shiftRight_eq_div_pow,
    Nat.mod_eq_of_lt quotient, Nat.shiftLeft_eq]

/-- Under such a mask the words with bits `v` are the `2^k` numbers from `v` on. -/
theorem and_highMask_eq_iff {n w k v : Nat} (hn : n < 2 ^ w) (hk : k ≤ w) (hv : 2 ^ k ∣ v) :
    n &&& (2 ^ w - 2 ^ k) = v ↔ v ≤ n ∧ n < v + 2 ^ k := by
  obtain ⟨m, rfl⟩ := hv
  rw [and_highMask hn hk, Nat.mul_comm, Nat.mul_right_inj (Nat.two_pow_pos k).ne',
    Nat.div_eq_iff (Nat.two_pow_pos k), Nat.mul_comm]
  have := Nat.two_pow_pos k
  omega

/-! ### The rows -/

/-- How many words the row stands for. -/
def OpcodeRow.size (r : OpcodeRow) : Nat := 2 ^ r.format.width - r.mask

theorem OpcodeRow.covers_iff (r : OpcodeRow) (cw : CodeWord) :
    r.covers cw = true ↔ r.format = cw.format ∧ cw.number &&& r.mask = r.value := by
  cases cw <;> simp [OpcodeRow.covers, CodeWord.format, CodeWord.number]

/-- Each mask of the table is one of high bits, and each value a multiple of the row's size. -/
theorem opcodeRows_mask : ∀ r ∈ opcodeRows, ∃ k : Fin 33, k.val ≤ r.format.width ∧
    r.mask = 2 ^ r.format.width - 2 ^ k.val ∧ 2 ^ k.val ∣ r.value := by
  decide

/-- A row of the table covers the words of its format from its value on, as many as its size. -/
theorem covers_iff_span {r : OpcodeRow} (hr : r ∈ opcodeRows) (cw : CodeWord) :
    r.covers cw = true ↔
      r.format = cw.format ∧ r.value ≤ cw.number ∧ cw.number < r.value + r.size := by
  obtain ⟨k, hk, hmask, hvalue⟩ := opcodeRows_mask r hr
  rw [OpcodeRow.covers_iff, and_congr_right_iff]
  intro format
  have size : r.size = 2 ^ k.val := by
    rw [OpcodeRow.size, hmask, Nat.sub_sub_self (Nat.pow_le_pow_right (by decide) hk)]
  rw [size, hmask, and_highMask_eq_iff (format ▸ cw.number_lt) hk hvalue]

/-- Two rows of one format have spans that do not meet. -/
theorem opcodeRows_disjoint : ∀ q ∈ opcodeRows, ∀ r ∈ opcodeRows, q.format = r.format →
    q = r ∨ q.value + q.size ≤ r.value ∨ r.value + r.size ≤ q.value := by
  decide

/-- No word matches two rows. -/
theorem covers_unique {q r : OpcodeRow} {cw : CodeWord} (hq : q ∈ opcodeRows) (hr : r ∈ opcodeRows)
    (cq : q.covers cw = true) (cr : r.covers cw = true) : q = r := by
  obtain ⟨fq, lq, uq⟩ := (covers_iff_span hq cw).1 cq
  obtain ⟨fr, lr, ur⟩ := (covers_iff_span hr cw).1 cr
  rcases opcodeRows_disjoint q hq r hr (fq.trans fr.symm) with same | below | above
  · exact same
  · omega
  · omega

/-! ### A row for every word -/

/-- A row of R75: its words are those with the OP. -/
def rowOfOp (mnemonic : String) (op : BitVec 2) : OpcodeRow :=
  ⟨mnemonic, .cmd32, op.toNat * 2 ^ 30, 2 ^ 32 - 2 ^ 30⟩

theorem toNat_opField (w : Command) : (opField w).toNat = w.toNat / 2 ^ 30 := by
  have := w.isLt
  rw [opField, BitVec.extractLsb'_toNat, Nat.shiftRight_eq_div_pow]
  omega

theorem rowOfOp_covers (mnemonic : String) {w : Command} {op : BitVec 2} (h : opField w = op) :
    (rowOfOp mnemonic op).covers (.cmd32 w) = true := by
  have masked : w.toNat &&& (2 ^ 32 - 2 ^ 30) = (opField w).toNat * 2 ^ 30 := by
    rw [toNat_opField, and_highMask w.isLt (by decide)]
  exact (OpcodeRow.covers_iff _ _).2 ⟨rfl, h ▸ masked⟩

/-- A row of Silence: the tags with highest set bit `k` (R81). -/
def silenceRow (k : Nat) : OpcodeRow := ⟨"WAVE.SILENCE", .wave8, 2 ^ k, 2 ^ 8 - 2 ^ k⟩

theorem silenceRow_mem {k : Nat} (h : 3 ≤ k) (h' : k < 8) : silenceRow k ∈ opcodeRows := by
  interval_cases k <;> decide

/-- The row of a Silence tag from 8 on is that of its highest set bit. -/
theorem silenceRow_log_covers {c : WaveCode} (h : 8 ≤ c.toNat) :
    silenceRow (Nat.log 2 c.toNat) ∈ opcodeRows ∧
    (silenceRow (Nat.log 2 c.toNat)).covers (.wave8 c) = true := by
  have nonzero : c.toNat ≠ 0 := by omega
  have low : 3 ≤ Nat.log 2 c.toNat := Nat.le_log_of_pow_le (by decide) h
  have high : Nat.log 2 c.toNat < 8 := Nat.log_lt_of_lt_pow nonzero c.isLt
  have span := and_highMask_eq_iff c.isLt high.le (dvd_refl (2 ^ Nat.log 2 c.toNat))
  refine ⟨silenceRow_mem low high, (OpcodeRow.covers_iff _ _).2 ⟨rfl, span.2 ⟨?_, ?_⟩⟩⟩
  · exact Nat.pow_log_le_self 2 nonzero
  · have := Nat.lt_pow_succ_log_self (b := 2) (by decide) c.toNat
    rw [pow_succ] at this
    omega

/-- The tags 0..7 have a row each (R81). -/
theorem exists_row_of_lt_eight : ∀ n < 8, ∃ r ∈ opcodeRows,
    r.covers (.wave8 (BitVec.ofNat 8 n)) = true ∧
    r.mnemonic = (decodeWave (BitVec.ofNat 8 n)).mnemonic := by
  decide

/-- Some row matches each word, under the mnemonic of the decoder's case. -/
theorem exists_row (cw : CodeWord) : ∃ r ∈ opcodeRows, r.covers cw = true ∧
    r.mnemonic = (decode cw).mnemonic := by
  match cw with
  | .cmd32 w =>
    rcases decodeCommand_cases w with ⟨op, e⟩ | ⟨op, e⟩ | ⟨op, e⟩ | ⟨op, e⟩ <;> rw [decode, e]
    · exact ⟨_, by decide, rowOfOp_covers "NOP" op, rfl⟩
    · exact ⟨_, by decide, rowOfOp_covers "RD" op, rfl⟩
    · exact ⟨_, by decide, rowOfOp_covers "WR" op, rfl⟩
    · exact ⟨_, by decide, rowOfOp_covers "TICK" op, rfl⟩
  | .wave8 c =>
    by_cases h : 8 ≤ c.toNat
    · obtain ⟨mem, covered⟩ := silenceRow_log_covers h
      refine ⟨_, mem, covered, ?_⟩
      rw [decode, decodeWave_silence (by omega)]
      rfl
    · obtain ⟨r, mem, row⟩ := exists_row_of_lt_eight c.toNat (by omega)
      rw [BitVec.ofNat_toNat, BitVec.setWidth_eq] at row
      exact ⟨r, mem, row⟩

theorem opcodeRows_nodup : opcodeRows.Nodup := by decide

/-- The rows that match a word are one row, once one of them is known. -/
theorem filter_covers_eq {r : OpcodeRow} {cw : CodeWord} (hr : r ∈ opcodeRows)
    (cr : r.covers cw = true) : opcodeRows.filter (fun q => q.covers cw) = [r] := by
  have same : ∀ q ∈ opcodeRows, q.covers cw = decide (q = r) := by
    intro q hq
    rw [Bool.eq_iff_iff, decide_eq_true_iff]
    exact ⟨fun cq => covers_unique hq hr cq cr, fun e => e ▸ cr⟩
  rw [List.filter_congr same, List.filter_eq, List.count_eq_one_of_mem opcodeRows_nodup hr]
  rfl

end Sys2Proof
end

section
/-! The statements of 30_encoding.md. -/

namespace Sys2Proof.Machine

/-- Settles O3: the table has a row for the decoder's case, and the spans of its rows do not meet. -/
theorem eachWordMatchesOneOpcodeRow : Obligations.EachWordMatchesOneOpcodeRow := by
  intro cw
  obtain ⟨r, mem, covered, mnemonic⟩ := exists_row cw
  have format : r.format = cw.format := ((r.covers_iff cw).1 covered).1
  exact ⟨r, filter_covers_eq mem covered, mnemonic, format.trans (format_decode cw).symm,
    wf_decode cw⟩

/-- Settles O2: the decoder reads the used fields only, and `encode` puts each field in its place. -/
theorem unusedFieldsAreIgnored : Obligations.UnusedFieldsAreIgnored := by
  refine ⟨fun _ _ => decodeCommand_congr, rfl, rfl, fun a => ?_, fun a d => ?_, fun w => ?_⟩
  · rw [encode, commandWord_rsv_zero]
    simp
  · rw [encode, commandWord_rsv_zero]
    rfl
  · exact encode_command (format_decodeCommand w)

/-- Settles O15: each command's meaning, and the one response that it appends. -/
theorem everyCommandReturnsItsResponse : Obligations.EveryCommandReturnsItsResponse := by
  refine ⟨fun s => rfl, exec_rd_eq, fun s a d => ⟨_, exec_wr_eq s a d, ?_⟩,
    fun s => ⟨_, exec_tick s, ?_⟩⟩
  · rw [State.respond_out, memWrite_out]
  · rw [tickResult_out, tickResult_sample]

end Sys2Proof.Machine
end

section
/-! SUPPORT. TICK in plain numbers (40_commands.md R103 to R106): the phase that modulation and advance
leave, the two bytes of a sample, and a TICK from a state whose latches have been replaced. -/

namespace Sys2Proof.Machine

/-! ### Phases -/

/-- What a carrier's modulator adds to its phase (R171). -/
theorem modulation_of_carrier (sc : Eight Int) {c : Fin 8} (h : c.val < 4) :
    modulation sc c = sc.get ⟨c.val + 4, by omega⟩ / 16 := by
  have modulator : modulatorOf c = ⟨c.val + 4, by omega⟩ := Fin.ext (by
    simp only [modulatorOf, Fin.val_add]
    omega)
  simp [modulation, isCarrier, h, modulator]

/-- Nothing modulates a modulator (R172). -/
theorem modulation_of_modulator (sc : Eight Int) {m : Fin 8} (h : 4 ≤ m.val) :
    modulation sc m = 0 := by
  have notCarrier : isCarrier m = false := by simp [isCarrier, h]
  simp [modulation, notCarrier]

/-- A carrier's phase after modulation and advance (R106). -/
theorem movePhase_phase_of_carrier (x : Voice) (sc : Eight Int) {c : Fin 8} (h : c.val < 4) :
    (x.movePhase (modulation sc c + x.increment)).phase =
      BitVec.ofInt 16 (x.phase.toNat + sc.get ⟨c.val + 4, by omega⟩ / 16 + x.freq.toNat / 4) := by
  rw [modulation_of_carrier sc h, add_assoc]
  rfl

/-- A modulator's phase after modulation and advance (R106, R172). -/
theorem toNat_movePhase_phase_of_modulator (x : Voice) (sc : Eight Int) {m : Fin 8}
    (h : 4 ≤ m.val) : (x.movePhase (modulation sc m + x.increment)).phase.toNat =
      (x.phase.toNat + x.freq.toNat / 4) % 65536 := by
  rw [modulation_of_modulator sc h, Voice.movePhase_phase, toNat_u16]
  simp only [Voice.increment, shr_freqShift, unsigned]
  omega

/-- Stages 3 and 4 of TICK move each phase once, by the sum of the two amounts (R106). -/
theorem advanceStage_modulateStage_get (sc : Eight Int) (vs : Eight Voice) (v : Fin 8) :
    (advanceStage (modulateStage sc vs)).get v =
      (vs.get v).movePhase (modulation sc v + (vs.get v).increment) := by
  simp [advanceStage_get, modulateStage_get]

/-- The two stages commute: neither reads what the other writes, and a sum has no order (R106). -/
theorem modulateStage_advanceStage (sc : Eight Int) (vs : Eight Voice) :
    modulateStage sc (advanceStage vs) = advanceStage (modulateStage sc vs) :=
  Eight.ext_get fun v => by
    rw [advanceStage_modulateStage_get, modulateStage_get, advanceStage_get,
      Voice.movePhase_movePhase, add_comm]

theorem tickResult_phase (s : State) (v : Fin 8) : ((tickResult s).voice v).phase =
    ((s.voice v).movePhase (modulation (tickScaled s) v + (s.voice v).increment)).phase := by
  rw [tickResult_voice]

/-! ### The sample and the latches -/

/-- A sample holds its two channels' bytes side by side: both fit, so `u16` drops nothing (R176, R202). -/
theorem toNat_mixSample {sc : Eight Int} (h : ∀ v, scaledRange (sc.get v)) :
    ((mixSample sc).toNat : Int) =
      ((sc.get 1 + sc.get 3) / 512 + 128) * 256 + ((sc.get 0 + sc.get 2) / 512 + 128) := by
  obtain ⟨rightLow, rightHigh⟩ := channel_range (h 1) (h 3)
  obtain ⟨leftLow, leftHigh⟩ := channel_range (h 0) (h 2)
  have sample : mixSample sc =
      u16 (channel (sc.get 1 + sc.get 3) * 256 + channel (sc.get 0 + sc.get 2)) := rfl
  rw [sample, toNat_u16]
  simp only [channel, shr_mixShift, mixBias] at *
  omega

/-- The latch a TICK sets reads back as the scaled value: every scaled value fits it (R150, R152). -/
theorem tickResult_scaled (s : State) (v : Fin 8) :
    ((tickResult s).voice v).scaled.toInt = (tickScaled s).get v := by
  obtain ⟨low, high⟩ := tickScaled_range s v
  rw [tickResult_voice]
  exact toInt_sext16 (by omega) (by omega)

/-! ### Other latches -/

/-- The state with other values in the latches `SCALED` and `SAMPLE`, those a TICK writes without reading
them (R105). -/
def State.withLatches (s : State) (old : Eight Half) (m : Half) : State :=
  { s with voices := s.voices.map (fun v x => { x with scaled := old.get v }), sample := m }

@[simp] theorem State.withLatches_seed (s : State) (old : Eight Half) (m : Half) :
    (s.withLatches old m).seed = s.seed := rfl
@[simp] theorem State.withLatches_port (s : State) (old : Eight Half) (m : Half) :
    (s.withLatches old m).port = s.port := rfl
@[simp] theorem State.withLatches_out (s : State) (old : Eight Half) (m : Half) :
    (s.withLatches old m).out = s.out := rfl

theorem State.withLatches_voice (s : State) (old : Eight Half) (m : Half) (v : Fin 8) :
    (s.withLatches old m).voice v = { s.voice v with scaled := old.get v } := by
  simp [State.withLatches, State.voice]

/-- Stage 2 of TICK reads no latch (R105). -/
theorem tickScaled_withLatches (s : State) (old : Eight Half) (m : Half) :
    tickScaled (s.withLatches old m) = tickScaled s :=
  Eight.ext_get fun v => by
    rw [tickScaled_get, tickScaled_get, State.withLatches_voice]
    rfl

/-- A TICK forgets the latches it found: it sets each of them anew (R105). -/
theorem tickResult_withLatches (s : State) (old : Eight Half) (m : Half) :
    tickResult (s.withLatches old m) = tickResult s := by
  have scaled := tickScaled_withLatches s old m
  apply State.ext_fields
  case hv =>
    intro v
    rw [tickResult_voice, tickResult_voice, scaled, State.withLatches_voice]
    rfl
  all_goals simp [scaled]

end Sys2Proof.Machine
end

section
/-! The statements of 40_commands.md. -/

namespace Sys2Proof.Machine

/-- Settles O44: both orders of the stages add the same two amounts to a phase, and TICK runs them. -/
theorem modulationAndAdvanceCommute : Obligations.ModulationAndAdvanceCommute := by
  refine ⟨fun sc vs => ⟨modulateStage_advanceStage sc vs, fun c h => ?_, fun m h => ?_⟩,
    fun s => ⟨_, exec_tick s, fun v => ?_⟩⟩
  · rw [advanceStage_modulateStage_get, movePhase_phase_of_carrier _ sc h]
  · rw [advanceStage_modulateStage_get, toNat_movePhase_phase_of_modulator _ sc h]
  · intro sc
    rw [tickResult_phase, advanceStage_modulateStage_get]
    rfl

/-- Settles O45: field by field, from what a TICK leaves in a voice and in the sample. -/
theorem tickGeneratesOneSample : Obligations.TickGeneratesOneSample := by
  intro s
  refine ⟨_, exec_tick s, ?_⟩
  intro nz sc
  have scaled (v : Fin 8) : sc v = (tickScaled s).get v := (tickScaled_get s v).symm
  simp only [scaled]
  refine ⟨tickResult_seed s, fun v => ⟨tickResult_scaled s v, ?_⟩, fun c h => ?_, fun m h => ?_,
    toNat_mixSample (tickScaled_range s), tickResult_out s, tickResult_port s, tickResult_tick s⟩
  · rw [tickResult_voice]
    exact ⟨rfl, rfl, rfl, rfl, rfl⟩
  · rw [tickResult_phase, movePhase_phase_of_carrier _ _ h]
  · rw [tickResult_phase, toNat_movePhase_phase_of_modulator _ _ h]

/-- Settles O46: the latches before a TICK are lost in it, and a voice keeps its five other fields. -/
theorem tickNeitherReadsNorKeepsLatches : Obligations.TickNeitherReadsNorKeepsLatches := by
  refine ⟨fun s old m => ?_, fun s => ⟨_, exec_tick s, fun v => ?_⟩⟩
  · change exec .tick (s.withLatches old m) = exec .tick s
    rw [exec_tick, exec_tick, tickResult_withLatches]
  · rw [tickResult_voice]
    rfl

end Sys2Proof.Machine
end

section
/-! SUPPORT. The sine approximator in whole numbers (41_sine.md R121 to R124): the source's sign trick, and
the parabola measured from the top of its arch. -/

namespace Sys2Proof.Machine

/-! ### The quadrant reduction -/

theorem reduce_toNat (x : Half) : reduce x.toNat =
    (if x.toNat < 16384 then (x.toNat : Int)
      else if x.toNat < 49152 then 32768 - (x.toNat : Int) else (x.toNat : Int) - 65536) := by
  simp only [reduce, Nat.cast_lt_ofNat]

theorem reduce_range (x : Half) : -16384 ≤ reduce x.toNat ∧ reduce x.toNat ≤ 16384 := by
  have := x.isLt
  rw [reduce_toNat]
  split_ifs <;> omega

theorem reduce_eq_quarter_iff (x : Half) : reduce x.toNat = 16384 ↔ x = 16384 := by
  have := x.isLt
  have quarter : x = 16384 ↔ x.toNat = 16384 := BitVec.toNat_inj.symm
  rw [reduce_toNat, quarter]
  split_ifs <;> omega

/-- The phase in the high half of the source's 32-bit word (R121). -/
def signWord (x : Half) : BitVec 32 := x.setWidth 32 <<< 16

theorem signWord_toNat (x : Half) : (signWord x).toNat = x.toNat * 65536 := by
  have := x.isLt
  simp only [signWord, BitVec.toNat_shiftLeft, BitVec.toNat_setWidth, Nat.shiftLeft_eq]
  omega

/-- The word's sign differs from the bit below it exactly in the two middle quarters (R121). -/
theorem signWord_trick (x : Half) : (signWord x ^^^ (signWord x <<< 1)).msb =
    decide (16384 ≤ x.toNat ∧ x.toNat < 49152) := by
  have := x.isLt
  have top : (signWord x).msb = decide (32768 ≤ x.toNat) := by
    rw [BitVec.msb_eq_decide, signWord_toNat]
    exact decide_eq_decide.mpr (by omega)
  have below : (signWord x <<< 1).msb = decide (32768 ≤ x.toNat * 2 % 65536) := by
    rw [BitVec.msb_eq_decide, BitVec.toNat_shiftLeft, signWord_toNat]
    exact decide_eq_decide.mpr (by omega)
  rw [BitVec.msb_xor, top, below, Bool.eq_iff_iff]
  simp only [Bool.xor_iff_ne, ne_eq, decide_eq_decide, decide_eq_true_eq]
  omega

/-- A word whose low half is empty reads as its high half after the shift back (R121). -/
theorem toInt_sshiftRight_of_toInt {w : BitVec 32} {y : Int} (h : w.toInt = y * 65536) :
    (w.sshiftRight 16).toInt = y := by
  rw [BitVec.toInt_sshiftRight, h, Int.shiftRight_eq_div_pow]
  omega

/-- The source's form with its sign trick read as a range of phases (R121). -/
theorem reduceWord_eq_ite (x : Half) : reduceWord x =
    ((if 16384 ≤ x.toNat ∧ x.toNat < 49152 then BitVec.ofInt 32 (-(2 ^ 31)) - signWord x
      else signWord x).sshiftRight 16).toInt := by
  have source : reduceWord x = ((if (signWord x ^^^ (signWord x <<< 1)).msb then
      BitVec.ofInt 32 (-(2 ^ 31)) - signWord x else signWord x).sshiftRight 16).toInt := rfl
  rw [source, signWord_trick]
  simp only [decide_eq_true_eq]

theorem reduceWord_eq (x : Half) : reduceWord x = reduce x.toNat := by
  have := x.isLt
  rw [reduceWord_eq_ite]
  apply toInt_sshiftRight_of_toInt
  rw [BitVec.toInt_eq_toNat_cond, reduce_toNat]
  by_cases middle : 16384 ≤ x.toNat ∧ x.toNat < 49152
  · have minimum : (BitVec.ofInt 32 (-(2 ^ 31))).toNat = 2147483648 := rfl
    rw [if_pos middle, BitVec.toNat_sub, minimum, signWord_toNat]
    split_ifs <;> omega
  · rw [if_neg middle, signWord_toNat]
    split_ifs <;> omega

/-! ### The parabola -/

/-- `polyT` of a reduced phase is at most 1 in units of `2^-15` (R122). -/
theorem polyT_range {y : Int} (low : -16384 ≤ y) (high : y ≤ 16384) :
    0 ≤ polyT y ∧ polyT y ≤ 32768 := by
  have := mul_self_nonneg y
  have : y * y ≤ 16384 * 16384 := by nlinarith
  rw [polyT_eq]
  omega

theorem polyU_range {y : Int} (low : -16384 ≤ y) (high : y ≤ 16384) :
    65536 ≤ polyU y ∧ polyU y ≤ 98304 := by
  obtain ⟨_, _⟩ := polyT_range low high
  simp only [polyT_eq, polyU_eq] at *
  omega

theorem polyU_neg (y : Int) : polyU (-y) = polyU y := by simp

/-- The parabola's product measured from the quarter, `k` phase units away: what is missing to `2^30` is a
square and what the floor of `polyT` keeps (R122). -/
theorem mul_polyU_from_quarter (k : Int) : (16384 - k) * polyU (16384 - k) =
    2 ^ 30 - 4 * (k * k) - (16384 - k) * (k * k / 8192) := by
  have square : (16384 - k) * (16384 - k) = 8192 * (32768 - 4 * k) + k * k := by ring
  have parenthesis : polyU (16384 - k) = 65536 + 4 * k - k * k / 8192 := by
    rw [polyU_eq, square]
    omega
  rw [parenthesis]
  ring

theorem mul_polyU_le {y : Int} (low : 0 ≤ y) :
    y * polyU y ≤ 2 ^ 30 - 4 * ((16384 - y) * (16384 - y)) := by
  have product := mul_polyU_from_quarter (16384 - y)
  have floor : 0 ≤ y * ((16384 - y) * (16384 - y) / 8192) :=
    mul_nonneg low (Int.ediv_nonneg (mul_self_nonneg _) (by norm_num))
  rw [sub_sub_cancel] at product
  omega

theorem mul_polyU_le_of_nonneg {y : Int} (low : 0 ≤ y) : y * polyU y ≤ 2 ^ 30 := by
  have := mul_polyU_le low
  have := mul_self_nonneg (16384 - y)
  omega

/-- No product of R122 is larger in size than `2^30`: `polyU` is even, so one side bounds the other. -/
theorem mul_polyU_range {y : Int} (low : -16384 ≤ y) (high : y ≤ 16384) :
    -(2 ^ 30) ≤ y * polyU y ∧ y * polyU y ≤ 2 ^ 30 := by
  have parenthesis : 0 ≤ polyU y := le_trans (by norm_num) (polyU_range low high).1
  rcases le_total 0 y with above | below
  · have := mul_nonneg above parenthesis
    exact ⟨by omega, mul_polyU_le_of_nonneg above⟩
  · have := mul_nonpos_of_nonpos_of_nonneg below parenthesis
    have mirrored := mul_polyU_le_of_nonneg (neg_nonneg.mpr below)
    rw [polyU_neg, neg_mul] at mirrored
    exact ⟨by omega, by omega⟩

theorem poly_eq_mul_polyU (y : Int) : poly y = y * polyU y / 8388608 := rfl

theorem poly_range {y : Int} (low : -16384 ≤ y) (high : y ≤ 16384) :
    -128 ≤ poly y ∧ poly y ≤ 128 := by
  obtain ⟨_, _⟩ := mul_polyU_range low high
  rw [poly_eq_mul_polyU]
  omega

/-- Only the quarter itself reaches the top of the arch (R124). -/
theorem poly_eq_top_iff {y : Int} (low : -16384 ≤ y) (high : y ≤ 16384) :
    poly y = 128 ↔ y = 16384 := by
  constructor
  · intro top
    obtain ⟨positive, _⟩ := polyU_range low high
    rw [poly_eq_mul_polyU] at top
    have above : 0 ≤ y := by
      by_contra below
      have := mul_neg_of_neg_of_pos (not_le.mp below) (by omega : 0 < polyU y)
      omega
    have := mul_polyU_le above
    have : (16384 - y) * (16384 - y) = 0 := by
      have := mul_self_nonneg (16384 - y)
      omega
    have := mul_self_eq_zero.mp this
    omega
  · rintro rfl
    decide

theorem poly_reduce_eq_top_iff (x : Half) : poly (reduce x.toNat) = 128 ↔ x = 16384 := by
  obtain ⟨low, high⟩ := reduce_range x
  rw [poly_eq_top_iff low high, reduce_eq_quarter_iff]

/-- The saturation of R124 acts at the quarter alone. -/
theorem quicksin_eq (x : Half) :
    quicksin x = if x = 16384 then 127 else poly (reduce x.toNat) := by
  split
  case isTrue quarter =>
    subst quarter
    decide
  case isFalse other =>
    obtain ⟨low, high⟩ := reduce_range x
    obtain ⟨bottom, top⟩ := poly_range low high
    have below := lt_of_le_of_ne top (mt (poly_reduce_eq_top_iff x).mp other)
    exact clamp_of_range bottom (Int.le_of_lt_add_one below)

end Sys2Proof.Machine
end

section
/-! The statements of 41_sine.md. -/

namespace Sys2Proof.Machine

/-- Settles O28: the sign trick picks out the middle quarters, where both forms mirror the phase. -/
theorem bothReductionsAgree : Obligations.BothReductionsAgree :=
  fun x => ⟨reduce_toNat x, reduceWord_eq x, reduce_range x⟩

/-- Settles O29: the product falls short of `2^30` by a square, which is zero at the quarter alone. -/
theorem parabolaSaturatesOnlyAtTheQuarter : Obligations.ParabolaSaturatesOnlyAtTheQuarter := by
  refine ⟨fun y low high => ?_, poly_reduce_eq_top_iff, quicksin_eq⟩
  obtain ⟨tLow, tHigh⟩ := polyT_range low high
  obtain ⟨uLow, uHigh⟩ := polyU_range low high
  obtain ⟨_, _⟩ := mul_polyU_range low high
  exact ⟨tLow, tHigh, uLow, uHigh, by omega, by omega, poly_eq y, poly_range low high⟩

end Sys2Proof.Machine
end

section
/-! SUPPORT. The LFSR step bit by bit (42_noise.md R130), how it is undone (R134), and its cycles. -/

namespace Sys2Proof.Machine

theorem lfsrFeedback_eq (s : Seed) :
    lfsrFeedback s = (s.getLsbD 31 ^^ s.getLsbD 24 ^^ s.getLsbD 6 ^^ s.getLsbD 9) := by
  simp [lfsrFeedback]

/-- Bit 0 of the stepped seed is the injected bit (R130). -/
@[simp] theorem lfsrStep_getLsbD_zero (s : Seed) : (lfsrStep s).getLsbD 0 = lfsrFeedback s := by
  simp [lfsrStep]

/-- Every other bit is its lower neighbour of the old seed (R130). -/
@[simp] theorem lfsrStep_getLsbD_succ (s : Seed) {i : Nat} (h : i < 31) :
    (lfsrStep s).getLsbD (i + 1) = s.getLsbD i := by
  have below : i + 1 < 32 := by omega
  simp [lfsrStep, below, BitVec.getLsbD_eq_getElem (Nat.lt_of_succ_lt below)]

/-- The bit shifted out is the injected bit with the three taps that survive taken off again (R134). -/
theorem getLsbD_top_eq_xor_lfsrStep (s : Seed) :
    s.getLsbD 31 = ((lfsrStep s).getLsbD 0 ^^ (lfsrStep s).getLsbD 25 ^^
      (lfsrStep s).getLsbD 7 ^^ (lfsrStep s).getLsbD 10) := by
  have tap24 := lfsrStep_getLsbD_succ s (i := 24) (by decide)
  have tap6 := lfsrStep_getLsbD_succ s (i := 6) (by decide)
  have tap9 := lfsrStep_getLsbD_succ s (i := 9) (by decide)
  rw [lfsrStep_getLsbD_zero, lfsrFeedback_eq, tap24, tap6, tap9]
  simp [Bool.xor_comm, Bool.xor_left_comm]

/-- The other 31 old bits stand one place up in the stepped seed (R134). -/
theorem extractLsb'_low_eq_lfsrStep (s : Seed) :
    s.extractLsb' 0 31 = (lfsrStep s).extractLsb' 1 31 := by
  apply BitVec.eq_of_getLsbD_eq
  intro i hi
  simp [hi, Nat.add_comm 1 i]

/-- The result gives every bit of the old seed back, so no two seeds step to one. -/
theorem lfsrStep_injective : Function.Injective lfsrStep := by
  intro s t h
  apply BitVec.eq_of_getLsbD_eq
  intro i hi
  rcases (Nat.le_of_lt_succ hi).lt_or_eq with low | rfl
  · rw [← lfsrStep_getLsbD_succ s low, h, lfsrStep_getLsbD_succ t low]
  · rw [getLsbD_top_eq_xor_lfsrStep s, h, ← getLsbD_top_eq_xor_lfsrStep t]

theorem lfsrStep_bijective : Function.Bijective lfsrStep :=
  lfsrStep_injective.bijective_of_finite

/-- The zero seed is a fixed point (R133). -/
@[simp] theorem lfsrStep_zero : lfsrStep 0 = 0 := by decide

/-- A seed stays nonzero for ever: the steps are injective and take zero to zero. -/
theorem iterate_lfsrStep_ne_zero {s : Seed} (h : s ≠ 0) (k : Nat) : lfsrStep^[k] s ≠ 0 := by
  intro reached
  refine h (lfsrStep_injective.iterate k ?_)
  rw [reached, Function.iterate_fixed lfsrStep_zero]

/-- There are finitely many seeds, so an injective step brings each of them back. -/
theorem exists_iterate_lfsrStep_eq_self (s : Seed) : ∃ n : Nat, 0 < n ∧ lfsrStep^[n] s = s :=
  lfsrStep_injective.mem_periodicPts s

end Sys2Proof.Machine
end

section
/-! The statements of 42_noise.md about the LFSR step. -/

namespace Sys2Proof.Machine

/-- Settles O25: every old bit can be read off the result, and the rest follows from injectivity on
finitely many seeds with zero fixed. -/
theorem lfsrStepIsABijection : Obligations.LfsrStepIsABijection := by
  refine ⟨lfsrStep_bijective,
    fun s => ⟨extractLsb'_low_eq_lfsrStep s, getLsbD_top_eq_xor_lfsrStep s⟩,
    fun s nonzero => iterate_lfsrStep_ne_zero nonzero 1, fun s nonzero => ?_, by decide⟩
  obtain ⟨n, positive, back⟩ := exists_iterate_lfsrStep_eq_self s
  exact ⟨n, positive, back, iterate_lfsrStep_ne_zero nonzero⟩

/-- Settles O24: the injected bit is the XOR of the four taps, and the other bits move up by one. -/
theorem lfsrStepShiftsAndInjects : Obligations.LfsrStepShiftsAndInjects := by
  intro s
  refine ⟨?_, fun i below => lfsrStep_getLsbD_succ s below⟩
  rw [lfsrStep_getLsbD_zero, lfsrFeedback_eq]

end Sys2Proof.Machine
end

section
/-! SUPPORT. The raw values in whole numbers (43_voice.md R140 to R147): each comparison and each mask of
a waveform case, read on the phase and the duty as numbers. -/

namespace Sys2Proof.Machine

/-- In stage 2 an instruction whose meaning sets a raw value changes `raw[v]` of the voice under
evaluation, and nothing else (R140). -/
theorem exec_of_setRaw {i : Instr} {s : State} {f : Voice → Int → Int}
    (meaning : exec i s = .next (s.setRaw f)) {v : Fin 8} {l : Locals} (h : s.tick = .evaluate v l) :
    exec i s = .next (s.setTick
      (.evaluate v { l with raw := l.raw.set v (f (s.voice v) l.nz) })) := by
  rw [meaning, State.setRaw_evaluate h]

/-! ### Triangle, Sawtooth and Pulse -/

theorem triangle_eq_ite (p : Half) : triangle p =
    (if (p.toNat : Int) < 32768 then (p.toNat : Int) / 128 - 128
      else 127 - ((p.toNat : Int) - 32768) / 128) := rfl

theorem sawtooth_eq (p : Half) : sawtooth p = (p.toNat : Int) / 256 - 128 := rfl

theorem toNat_mirror (p : Half) : (65535 - p).toNat = 65535 - p.toNat :=
  BitVec.toNat_sub_of_le (Nat.le_of_lt_succ p.isLt)

theorem triangle_mirror (p : Half) : triangle p = triangle (65535 - p) := by
  have := p.isLt
  rw [triangle_eq_ite, triangle_eq_ite, toNat_mirror]
  split_ifs <;> omega

theorem triangle_eq_top_iff (p : Half) :
    32640 ≤ p.toNat ∧ p.toNat ≤ 32895 ↔ triangle p = 127 := by
  rw [triangle_eq_ite]
  split_ifs <;> omega

theorem triangle_eq_bottom_iff (p : Half) :
    p.toNat ≤ 127 ∨ 65408 ≤ p.toNat ↔ triangle p = -128 := by
  have := p.isLt
  rw [triangle_eq_ite]
  split_ifs <;> omega

theorem pulse_eq_ite (p d : Half) : pulse p d = if p.toNat ≤ d.toNat then 127 else -128 := by
  simp only [pulse, unsigned, Nat.cast_le]

theorem pulse_eq_top_iff (p d : Half) : pulse p d = 127 ↔ p.toNat ≤ d.toNat := by
  rw [pulse_eq_ite]
  split_ifs with h <;> simp [h]

theorem toNat_add_one {d : Half} (h : d ≠ 65535) : (d + 1).toNat = d.toNat + 1 := by
  have below : d.toNat ≠ 65535 := fun e => h (BitVec.eq_of_toNat_eq e)
  have := d.isLt
  rw [BitVec.toNat_add]
  change (d.toNat + 1) % 2 ^ 16 = _
  omega

/-- One unit of duty moves the transition by one phase unit (R143). -/
theorem pulse_ne_pulse_add_one_iff (p : Half) {d : Half} (h : d ≠ 65535) :
    pulse p d ≠ pulse p (d + 1) ↔ p = d + 1 := by
  rw [pulse_eq_ite, pulse_eq_ite, ← BitVec.toNat_inj, toNat_add_one h]
  split_ifs <;> omega

/-! ### Noise -/

theorem rawOf_of_noise {x : Voice} (h : x.wave = 3) (nz : Int) : rawOf x nz = nz := by
  rw [rawOf, h]
  rfl

theorem crush_zero (raw : Int) : crush raw 0 = raw := rfl

/-- What an uncrushed Noise voice adds to a TICK (R144, R150). -/
theorem scaledOf_of_noise {x : Voice} (wave : x.wave = 3) (uncrushed : x.crush = 0) (nz : Int) :
    scaledOf x nz = nz * x.vol.toNat := by
  rw [scaledOf, crushedOf, rawOf_of_noise wave, uncrushed, crush_zero]
  rfl

/-! ### The sine waveforms -/

theorem sine_eq_ite (p d : Half) : sine p d =
    if p.toNat < d.toNat ∨ p.toNat + d.toNat > 65535 then quicksin p else 0 := by
  have window : (unsigned p < unsigned d ∨ 65535 - unsigned d < unsigned p) ↔
      (p.toNat < d.toNat ∨ p.toNat + d.toNat > 65535) := by
    simp only [unsigned]
    omega
  simp only [sine, window]

theorem not_eq_ofNat (p : Half) : ~~~p = BitVec.ofNat 16 (65535 - p.toNat) := by
  apply BitVec.eq_of_toNat_eq
  rw [BitVec.toNat_not, BitVec.toNat_ofNat]
  omega

theorem absSine_eq_ite (p d : Half) : absSine p d =
    if p.toNat < d.toNat then quicksin p else quicksin (BitVec.ofNat 16 (65535 - p.toNat)) := by
  simp only [absSine, unsigned, Nat.cast_lt, not_eq_ofNat]

theorem absSine_duty_zero (p : Half) : absSine p 0 = quicksin (~~~p) :=
  if_neg (not_lt.mpr (unsigned_nonneg p))

theorem and_bit14_ne_zero_iff (p : Half) : p &&& 0x4000 ≠ 0 ↔ p.toNat / 16384 % 2 = 1 := by
  have mask : (p &&& 0x4000).toNat = (p.toNat.testBit 14).toNat * 2 ^ 14 :=
    Nat.and_two_pow p.toNat 14
  rw [Ne, ← BitVec.toNat_inj, mask, Nat.testBit_eq_decide_div_mod_eq]
  by_cases h : p.toNat / 16384 % 2 = 1 <;> simp [h]

theorem quarterSine_eq_ite (p : Half) :
    quarterSine p = if p.toNat / 16384 % 2 = 1 then 0 else quicksin p := by
  simp only [quarterSine, and_bit14_ne_zero_iff]

/-- quicksin has the sign of the reduced phase (R122, R124). -/
theorem quicksin_nonneg {x : Half} (h : 0 ≤ reduce x.toNat) : 0 ≤ quicksin x := by
  obtain ⟨low, high⟩ := reduce_range x
  obtain ⟨positive, _⟩ := polyU_range low high
  have product := mul_nonneg h (by omega : 0 ≤ polyU (reduce x.toNat))
  have parabola : 0 ≤ poly (reduce x.toNat) := Int.ediv_nonneg product (by decide)
  exact le_min (by decide) (le_max_of_le_right parabola)

theorem quicksin_nonpos {x : Half} (h : reduce x.toNat ≤ 0) : quicksin x ≤ 0 := by
  obtain ⟨low, high⟩ := reduce_range x
  obtain ⟨positive, _⟩ := polyU_range low high
  have product := mul_nonpos_of_nonpos_of_nonneg h (by omega : 0 ≤ polyU (reduce x.toNat))
  have parabola : poly (reduce x.toNat) ≤ 0 := by
    rw [poly_eq_mul_polyU]
    omega
  exact min_le_of_right_le (max_le (by decide) parabola)

/-! ### The sine at the mirrored phase -/

/-- One unit of the reduced phase moves R122's product by far less than one unit of output. -/
theorem mul_polyU_step {y : Int} (low : -16384 ≤ y) (high : y + 1 ≤ 16384) :
    -(2 ^ 23) < (y + 1) * polyU (y + 1) - y * polyU y ∧
    (y + 1) * polyU (y + 1) - y * polyU y < 2 ^ 23 := by
  obtain ⟨uLow, uHigh⟩ := polyU_range (by omega : -16384 ≤ y + 1) high
  have square : (y + 1) * (y + 1) = y * y + 2 * y + 1 := by ring
  obtain ⟨dLow, dHigh⟩ : -8 ≤ polyU (y + 1) - polyU y ∧ polyU (y + 1) - polyU y ≤ 8 := by
    rw [polyU_eq, polyU_eq, square]
    omega
  have difference : (y + 1) * polyU (y + 1) - y * polyU y =
      polyU (y + 1) + y * (polyU (y + 1) - polyU y) := by ring
  have size : |y * (polyU (y + 1) - polyU y)| ≤ 16384 * 8 := by
    rw [abs_mul]
    exact mul_le_mul (abs_le.mpr ⟨low, by omega⟩) (abs_le.mpr ⟨dLow, dHigh⟩) (abs_nonneg _)
      (by decide)
  obtain ⟨_, _⟩ := abs_le.mp size
  omega

/-- Two reduced phases one unit from opposite give opposite outputs, up to their two floors. -/
theorem poly_add_poly {y z : Int} (yLow : -16384 ≤ y) (yHigh : y ≤ 16384) (zLow : -16384 ≤ z)
    (zHigh : z ≤ 16384) (h : y + z = -1 ∨ y + z = 1) :
    -2 ≤ poly y + poly z ∧ poly y + poly z ≤ 0 := by
  have close : -(2 ^ 23) < y * polyU y + z * polyU z ∧ y * polyU y + z * polyU z < 2 ^ 23 := by
    have mirrored : -z * polyU (-z) = -(z * polyU z) := by rw [polyU_neg, neg_mul]
    rcases h with h | h
    · have := mul_polyU_step yLow (by omega)
      rw [show y + 1 = -z by omega, mirrored] at this
      omega
    · have := mul_polyU_step (y := -z) (by omega) (by omega)
      rw [show -z + 1 = y by omega, mirrored] at this
      omega
  rw [poly_eq_mul_polyU, poly_eq_mul_polyU]
  omega

theorem reduce_add_reduce_not (p : Half) :
    reduce p.toNat + reduce (~~~p).toNat = -1 ∨ reduce p.toNat + reduce (~~~p).toNat = 1 := by
  have := p.isLt
  rw [reduce_toNat, reduce_toNat, BitVec.toNat_not]
  split_ifs <;> omega

/-- The mirrored phase 65535 - p inverts the sine (R146); the two phases that meet the saturation of R124
are evaluated. -/
theorem quicksin_not_add_quicksin (p : Half) :
    -2 ≤ quicksin (~~~p) + quicksin p ∧ quicksin (~~~p) + quicksin p ≤ 0 := by
  by_cases quarter : p = 16384
  · subst quarter
    decide
  by_cases mirrored : ~~~p = 16384
  · rw [← BitVec.not_not (b := p), mirrored]
    decide
  obtain ⟨low, high⟩ := reduce_range p
  obtain ⟨nLow, nHigh⟩ := reduce_range (~~~p)
  rw [quicksin_eq, quicksin_eq p, if_neg mirrored, if_neg quarter, add_comm]
  exact poly_add_poly low high nLow nHigh (reduce_add_reduce_not p)

end Sys2Proof.Machine
end

section
/-! SUPPORT. Bit-crush in whole numbers (43_voice.md R149): forcing low bits of a pattern to 1 rounds the
value down to the depth's unit and adds all of the unit but one. -/

namespace Sys2Proof.Machine

/-- A value with its `n` low bits forced to 1: rounded down to a multiple of `2^n`, plus `2^n - 1`. -/
def forceLow (raw : Int) (n : Nat) : Int := raw / 2 ^ n * 2 ^ n + (2 ^ n - 1)

theorem forceLow_eq_sub_emod (raw : Int) (n : Nat) :
    forceLow raw n = raw - raw % 2 ^ n + (2 ^ n - 1) := by
  rw [forceLow, Int.emod_def]
  ring

/-- The same in patterns: an OR with all of the `n` low bits. -/
theorem or_lowMask (a n : Nat) : ((a ||| 2 ^ n - 1 : Nat) : Int) = forceLow a n := by
  have bits : a ||| 2 ^ n - 1 = 2 ^ n * (a / 2 ^ n) ||| 2 ^ n - 1 := by
    apply Nat.eq_of_testBit_eq
    intro i
    by_cases h : n ≤ i
    · simp [Nat.testBit_two_pow_mul, Nat.testBit_div_two_pow, h]
    · simp [Nat.testBit_two_pow_mul, h, Nat.not_le.mp h]
  have positive := Nat.two_pow_pos n
  rw [bits, ← Nat.two_pow_add_eq_or_of_lt (by omega : 2 ^ n - 1 < 2 ^ n), forceLow]
  push_cast [Nat.one_le_two_pow]
  ring

theorem s8_eq_ite (v : Int) : s8 v = if 128 ≤ v % 256 then v % 256 - 256 else v % 256 := rfl

theorem s8_congr {a b : Int} (h : a % 256 = b % 256) : s8 a = s8 b := by
  rw [s8_eq_ite, s8_eq_ite, h]

theorem s8_of_byteRange {v : Int} (h : byteRange v) : s8 v = v := by
  obtain ⟨low, high⟩ := h
  rw [s8_eq_ite]
  split_ifs <;> omega

theorem forceLow_zero (raw : Int) : forceLow raw 0 = raw := by simp [forceLow]

/-- Reading the byte's pattern first changes the result by multiples of 256 only. -/
theorem forceLow_emod_byte (raw : Int) {n : Nat} (h : n ≤ 8) :
    forceLow (raw % 256) n % 256 = forceLow raw n % 256 := by
  have unit : (2 ^ n : Int) ∣ 256 := pow_dvd_pow 2 h
  rw [forceLow_eq_sub_emod, forceLow_eq_sub_emod, Int.emod_emod_of_dvd raw unit]
  omega

theorem toNat_crushMask (k : BitVec 4) : (crushMask k).toNat = 2 ^ min k.toNat 8 - 1 := by
  have := Nat.pow_le_pow_right (n := 2) (by decide) (min_le_right k.toNat 8)
  rw [crushMask, BitVec.toNat_ofNat]
  omega

theorem toNat_sext8 (v : Int) : ((sext8 v).toNat : Int) = v % 256 := by
  rw [sext8, BitVec.toNat_ofInt]
  change ((v % 256).toNat : Int) = _
  omega

/-- Bit-crush at every depth: the low bits forced to 1, read as a signed byte (R149). -/
theorem crush_eq_s8_forceLow {raw : Int} (k : BitVec 4) (h : byteRange raw) :
    crush raw k = s8 (forceLow raw (min k.toNat 8)) := by
  unfold crush
  split_ifs with zero
  · subst zero
    exact (s8_of_byteRange h).symm.trans (congrArg s8 (forceLow_zero raw).symm)
  · apply s8_congr
    rw [unsigned, BitVec.toNat_or, toNat_crushMask, or_lowMask, toNat_sext8,
      forceLow_emod_byte raw (min_le_right _ _)]

theorem le_forceLow (raw : Int) (n : Nat) : raw ≤ forceLow raw n := by
  have := Int.emod_lt_of_pos raw (by positivity : (0 : Int) < 2 ^ n)
  rw [forceLow_eq_sub_emod]
  omega

/-- A depth below 8 leaves the sign bit, and so the value in a signed byte (R149). -/
theorem forceLow_range {raw : Int} {n : Nat} (h : byteRange raw) (below : n ≤ 7) :
    byteRange (forceLow raw n) ∧ (forceLow raw n < 0 ↔ raw < 0) := by
  unfold byteRange forceLow at *
  interval_cases n <;> omega

/-- Depth 8 forces every bit of the byte to 1 (R149). -/
theorem s8_forceLow_eight (raw : Int) : s8 (forceLow raw 8) = -1 := by
  have ones : forceLow raw 8 % 256 = -1 % 256 := by
    unfold forceLow
    omega
  rw [s8_congr ones]
  rfl

theorem crush_eq_forceLow {raw : Int} {k : BitVec 4} (h : byteRange raw) (below : k.toNat ≤ 7) :
    crush raw k = forceLow raw k.toNat := by
  rw [crush_eq_s8_forceLow k h, min_eq_left (by omega),
    s8_of_byteRange (forceLow_range h below).1]

theorem crush_deep {raw : Int} {k : BitVec 4} (h : byteRange raw) (deep : 8 ≤ k.toNat) :
    crush raw k = -1 := by
  rw [crush_eq_s8_forceLow k h, min_eq_right deep, s8_forceLow_eight]

end Sys2Proof.Machine
end

section
/-! The statements of 43_voice.md about single waveforms and bit-crush. -/

namespace Sys2Proof.Machine

/-- Settles O33: the formula by cases, each plateau and the mirror image by arithmetic on it. -/
theorem triangleRawValue : Obligations.TriangleRawValue := by
  refine ⟨fun s v l stage => ?_, triangle_mirror, triangle_eq_top_iff, triangle_eq_bottom_iff,
    by decide⟩
  rw [exec_of_setRaw rfl stage, triangle_eq_ite]

/-- Settles O34: the quotient rises with the phase and takes its two ends where stated. -/
theorem sawtoothRawValue : Obligations.SawtoothRawValue := by
  refine ⟨fun s v l stage => ?_, fun p q h => ?_, fun p => ?_, fun p => ?_, by decide⟩
  · rw [exec_of_setRaw rfl stage, sawtooth_eq]
  · rw [sawtooth_eq, sawtooth_eq]
    omega
  · rw [sawtooth_eq]
    omega
  · have := p.isLt
    rw [sawtooth_eq]
    omega

/-- Settles O35: the comparison as numbers, where one unit of duty is one unit of phase. -/
theorem pulseRawValue : Obligations.PulseRawValue := by
  refine ⟨fun s v l stage => ?_, fun p => ?_, fun p => ?_,
    fun p _ h => pulse_ne_pulse_add_one_iff p h⟩
  · rw [exec_of_setRaw rfl stage, pulse_eq_ite]
  · rw [pulse_eq_top_iff, ← BitVec.toNat_inj]
    exact Nat.le_zero
  · exact (pulse_eq_top_iff p 65535).mpr (Nat.le_of_lt_succ p.isLt)

/-- Settles O36: the latch of an uncrushed Noise voice holds the noise value of the stepped seed, times
its volume. -/
theorem noiseRawValue : Obligations.NoiseRawValue := by
  refine ⟨fun s v l stage => ?_, fun s => ⟨_, exec_tick s, fun v wave uncrushed => ?_⟩,
    fun s zero => ?_, by decide⟩
  · rw [exec_of_setRaw rfl stage, noise]
  · rw [tickResult_scaled, tickScaled_get, scaledOf_of_noise wave uncrushed, tickNoise,
      noiseValue_eq, tickResult_seed]
  · rw [zero, lfsrStep_zero]
    decide

/-- Settles O37: the window as numbers; it is empty for duty 0 and full from 32768. -/
theorem sineRawValue : Obligations.SineRawValue := by
  refine ⟨fun s v l stage => ?_, fun p => ?_, fun p d wide => ?_, by decide⟩
  · rw [exec_of_setRaw rfl stage, sine_eq_ite]
  · have := p.isLt
    rw [sine_eq_ite, BitVec.ofNat_eq_ofNat, BitVec.toNat_zero]
    exact if_neg (by omega)
  · rw [sine_eq_ite]
    exact if_pos (by omega)

/-- Settles O38: the mirrored phase inverts the sine up to the floors of the two parabolas. -/
theorem absSineRawValue : Obligations.AbsSineRawValue := by
  refine ⟨fun s v l stage => ?_, fun p => ?_, by decide⟩
  · rw [exec_of_setRaw rfl stage, absSine_eq_ite]
  · obtain ⟨low, high⟩ := quicksin_not_add_quicksin p
    rw [absSine_duty_zero]
    omega

/-- Settles O39: bit 14 as a quotient, and the sign of the reduced phase on the other two quarters. -/
theorem quarterSineRawValue : Obligations.QuarterSineRawValue := by
  refine ⟨fun s v l stage => ?_, fun p first => ⟨?_, (quarterSine_range p).2⟩,
    fun p low high => ⟨(quarterSine_range p).1, ?_⟩, fun p bit => ?_, by decide⟩
  · rw [exec_of_setRaw rfl stage, quarterSine_eq_ite]
  · rw [quarterSine_eq_ite, if_neg (by omega)]
    apply quicksin_nonneg
    rw [reduce_toNat, if_pos first]
    omega
  · rw [quarterSine_eq_ite, if_neg (by omega)]
    apply quicksin_nonpos
    rw [reduce_toNat, if_neg (by omega), if_pos high]
    omega
  · rw [quarterSine_eq_ite, if_pos bit]

/-- Settles O41: below depth 8 the sign bit is untouched, from depth 8 all eight bits are 1. -/
theorem crushForcesLowBits : Obligations.CrushForcesLowBits := by
  intro raw k byte
  refine ⟨fun zero => by rw [zero, crush_zero], fun _ below => ?_, crush_deep byte,
    crush_range k byte⟩
  rw [crush_eq_forceLow byte below]
  exact ⟨rfl, le_forceLow raw _, (forceLow_range byte below).2⟩

end Sys2Proof.Machine
end

section
/-! SUPPORT. Modulation and mixdown (44_modulation_mix.md): the two bytes of a sample, and what a TICK's
scaled values, sample and voices depend on. -/

namespace Sys2Proof.Machine

/-! ### The two bytes of a sample -/

/-- Each byte of a sample is one channel's: neither overflows into the other (R175, R176). -/
theorem mixSample_bytes {sc : Eight Int} (h : ∀ v, scaledRange (sc.get v)) :
    (((mixSample sc).toNat % 256 : Nat) : Int) = channel (sc.get 0 + sc.get 2) ∧
    (((mixSample sc).toNat / 256 : Nat) : Int) = channel (sc.get 1 + sc.get 3) := by
  obtain ⟨leftLow, leftHigh⟩ := channel_range (h 0) (h 2)
  have sample : ((mixSample sc).toNat : Int) =
      channel (sc.get 1 + sc.get 3) * 256 + channel (sc.get 0 + sc.get 2) := toNat_mixSample h
  omega

theorem channel_zero : channel 0 = 128 := by decide

/-- A small negative sum is floored away from mid-scale (R175). -/
theorem channel_of_small_negative {sum : Int} (low : -512 ≤ sum) (neg : sum < 0) :
    channel sum = 127 := by
  simp only [channel, shr_mixShift, mixBias]
  omega

/-! ### What a TICK depends on -/

/-- The sample is mixed from the carriers alone (R172 to R174). -/
theorem mixSample_congr {sc sc' : Eight Int} (h : ∀ c : Fin 8, c.val < 4 → sc.get c = sc'.get c) :
    mixSample sc = mixSample sc' := by
  have left : leftByte sc = leftByte sc' :=
    congrArg channel (congrArg₂ (· + ·) (h 0 (by decide)) (h 2 (by decide)))
  have right : rightByte sc = rightByte sc' :=
    congrArg channel (congrArg₂ (· + ·) (h 1 (by decide)) (h 3 (by decide)))
  rw [mixSample, mixSample, left, right]

section
variable {s s' : State} {v : Fin 8} (seed : s.seed = s'.seed) (voice : s.voice v = s'.voice v)
include seed voice

/-- A voice's scaled value depends on `SEED` and that voice (R103 stage 2). -/
theorem tickScaled_get_congr : (tickScaled s).get v = (tickScaled s').get v := by
  rw [tickScaled_get, tickScaled_get, tickNoise, tickNoise, seed, voice]

/-- But for its phase, what a TICK leaves in a voice depends on `SEED` and that voice (R172). -/
theorem tickResult_voice_congr_except_phase :
    (tickResult s).voice v =
      { (tickResult s').voice v with phase := ((tickResult s).voice v).phase } := by
  rw [tickResult_voice, tickResult_voice, tickScaled_get_congr seed voice, voice]
  rfl

/-- Other voices reach a voice only through what modulation adds to its phase (R171, R172). -/
theorem tickResult_voice_congr
    (offset : modulation (tickScaled s) v = modulation (tickScaled s') v) :
    (tickResult s).voice v = (tickResult s').voice v := by
  rw [tickResult_voice, tickResult_voice, tickScaled_get_congr seed voice, voice, offset]

end

end Sys2Proof.Machine
end

section
/-! The statements of 44_modulation_mix.md. -/

namespace Sys2Proof.Machine

/-- Settles O43: a byte of the sample is its channel, the floor of an exact sum. -/
theorem mixShiftsTheSumOfTwoCarriers : Obligations.MixShiftsTheSumOfTwoCarriers := by
  intro sc range
  obtain ⟨left, right⟩ := mixSample_bytes range
  obtain ⟨leftMax, rightMax⟩ := mixSample_ok range
  refine ⟨left, right, leftMax, rightMax, fun zero => ?_, fun zero => ?_,
    fun low neg => ?_, fun low neg => ?_⟩
  · rw [zero, channel_zero] at left
    exact_mod_cast left
  · rw [zero, channel_zero] at right
    exact_mod_cast right
  · rw [channel_of_small_negative low neg] at left
    exact_mod_cast left
  · rw [channel_of_small_negative low neg] at right
    exact_mod_cast right

/-- Settles O47: the mix reads carriers only, and modulation, the one path between two voices, goes from
a modulator to its own carrier. -/
theorem modulatorsNeverReachTheOutput : Obligations.ModulatorsNeverReachTheOutput := by
  intro s s' seed
  refine ⟨_, _, exec_tick s, exec_tick s', fun carriers => ⟨?_, fun c h => ?_⟩,
    fun c h carrier modulator => ?_, fun m h same => ?_, fun m h => ?_⟩
  · exact mixSample_congr fun c h => tickScaled_get_congr seed (carriers c h)
  · exact tickResult_voice_congr_except_phase seed (carriers c h)
  · apply tickResult_voice_congr seed carrier
    rw [modulation_of_carrier _ h, modulation_of_carrier _ h, tickScaled_get_congr seed modulator]
  · apply tickResult_voice_congr seed same
    rw [modulation_of_modulator _ h, modulation_of_modulator _ h]
  · rw [tickResult_phase, toNat_movePhase_phase_of_modulator _ _ h]

end Sys2Proof.Machine
end

section
/-! SUPPORT. What it means for a TICK's values to fit their widths (60_exceptions.md R202): a signed byte
fits 8 signed bits, a scaled value 16, and two scaled values add up within 17. -/

namespace Sys2Proof.Machine

theorem overflowsSigned_eq_false_iff (w : Nat) (v : Int) :
    overflowsSigned w v = false ↔ -(2 ^ w) ≤ v ∧ v < 2 ^ w := by
  simp [overflowsSigned]

theorem overflowsSigned_of_byteRange {v : Int} (h : byteRange v) : overflowsSigned 7 v = false := by
  obtain ⟨low, high⟩ := h
  rw [overflowsSigned_eq_false_iff]
  omega

theorem overflowsSigned_of_scaledRange {v : Int} (h : scaledRange v) :
    overflowsSigned 15 v = false := by
  obtain ⟨low, high⟩ := h
  rw [overflowsSigned_eq_false_iff]
  omega

/-- The exact sum of a channel's two carriers (R173, R174). -/
theorem add_scaledRange {a b : Int} (ha : scaledRange a) (hb : scaledRange b) :
    -65280 ≤ a + b ∧ a + b ≤ 64770 := by
  obtain ⟨aLow, aHigh⟩ := ha
  obtain ⟨bLow, bHigh⟩ := hb
  omega

/-- The product of R122 at a reduced phase fits a 32-bit signed word, with a factor 2 to spare. -/
theorem reduce_mul_polyU_range (x : Half) :
    -(2 ^ 31) < reduce x.toNat * polyU (reduce x.toNat) ∧
    reduce x.toNat * polyU (reduce x.toNat) < 2 ^ 31 := by
  obtain ⟨low, high⟩ := reduce_range x
  obtain ⟨_, _⟩ := mul_polyU_range low high
  omega

end Sys2Proof.Machine
end

section
/-! The statements of 60_exceptions.md about arithmetic. -/

namespace Sys2Proof.Machine

/-- Settles O42: the range of each value, from the waveform's to the mix byte's, lies in its width. -/
theorem noArithmeticOverflows : Obligations.NoArithmeticOverflows := by
  refine ⟨fun x nz noise => ?_, fun sc range => ?_, reduce_mul_polyU_range⟩
  · have scaled := scaledOf_range x noise
    exact ⟨overflowsSigned_of_byteRange (rawOf_range x noise),
      overflowsSigned_of_byteRange (crushedOf_range x noise),
      overflowsSigned_of_scaledRange scaled, scaled⟩
  · obtain ⟨leftSumLow, leftSumHigh⟩ := add_scaledRange (range 0) (range 2)
    obtain ⟨rightSumLow, rightSumHigh⟩ := add_scaledRange (range 1) (range 3)
    obtain ⟨leftLow, leftHigh⟩ := channel_range (range 0) (range 2)
    obtain ⟨rightLow, rightHigh⟩ := channel_range (range 1) (range 3)
    exact ⟨leftSumLow, leftSumHigh, rightSumLow, rightSumHigh, leftLow, leftHigh, rightLow,
      rightHigh⟩

end Sys2Proof.Machine
end

section
/-! SUPPORT. Decoding undoes encoding (30_encoding.md R76, R81). -/

namespace Sys2Proof

/-- A tag is read back as its own case; Silence needs the tag to be none of the seven others (R81). -/
theorem decode_encode_of_wave8 {i : Instr} (format : i.format = .wave8) (h : i.wf = true) :
    decode (encode i) = i := by
  cases i with
  | nop | rd _ | wr _ _ | tick => cases format
  | waveTri | waveSaw | wavePulse | waveNoise | waveSine | waveAbsSine | waveQSine => rfl
  | waveSilence code => exact decodeWave_silence (of_decide_eq_true h)

theorem decode_encode {i : Instr} (h : i.wf = true) : decode (encode i) = i := by
  cases format : i.format with
  | cmd32 =>
    obtain ⟨w, encoded, -, decoded⟩ := encode_command format
    rw [encoded]
    exact decoded
  | wave8 => exact decode_encode_of_wave8 format h

end Sys2Proof
end

section
/-! SUPPORT. What an instruction can do to the state, by its format (30_encoding.md R75, R81): the four
commands answer once and leave the port alone, the waveform cases touch the stage of a TICK only. -/

namespace Sys2Proof.Machine

/-! ### Waveform cases -/

/-- A waveform case sets a raw value, a signed byte where the noise value is one (R140). -/
theorem exec_of_wave8 {i : Instr} (format : i.format = .wave8) : ∃ f : Voice → Int → Int,
    (∀ s, exec i s = .next (s.setRaw f)) ∧ ∀ x nz, byteRange nz → byteRange (f x nz) := by
  cases i with
  | nop | rd _ | wr _ _ | tick => cases format
  | waveTri => exact ⟨_, fun _ => rfl, fun x _ _ => triangle_range x.phase⟩
  | waveSaw => exact ⟨_, fun _ => rfl, fun x _ _ => sawtooth_range x.phase⟩
  | wavePulse => exact ⟨_, fun _ => rfl, fun x _ _ => pulse_range x.phase x.duty⟩
  | waveNoise => exact ⟨_, fun _ => rfl, fun _ _ noise => noise⟩
  | waveSine => exact ⟨_, fun _ => rfl, fun x _ _ => sine_range x.phase x.duty⟩
  | waveAbsSine => exact ⟨_, fun _ => rfl, fun x _ _ => absSine_range x.phase x.duty⟩
  | waveQSine => exact ⟨_, fun _ => rfl, fun x _ _ => quarterSine_range x.phase⟩
  | waveSilence _ => exact ⟨_, fun _ => rfl, fun _ _ _ => silence_range⟩

/-- The case a tag selects sets the raw value that R140 gives the tag. -/
theorem exec_decodeWave (c : WaveCode) (s : State) :
    exec (decodeWave c) s = .next (s.setRaw fun x nz => wave c x.phase x.duty nz) := by
  rcases decodeWave_cases c with
    ⟨-, e⟩ | ⟨-, e⟩ | ⟨-, e⟩ | ⟨-, e⟩ | ⟨-, e⟩ | ⟨-, e⟩ | ⟨-, e⟩ | ⟨-, e⟩ <;>
    simp only [wave, e] <;> rfl

@[simp] theorem State.setRaw_port (s : State) (f : Voice → Int → Int) :
    (s.setRaw f).port = s.port := by
  obtain ⟨t, e, -⟩ := s.setRaw_cases f
  rw [e, State.setTick_port]

@[simp] theorem State.setRaw_seed (s : State) (f : Voice → Int → Int) :
    (s.setRaw f).seed = s.seed := by
  obtain ⟨t, e, -⟩ := s.setRaw_cases f
  rw [e, State.setTick_seed]

/-! ### Commands -/

/-- What a command can do: answer only, write a location, or generate a sample (R100 to R103). -/
theorem exec_command_cases {i : Instr} (format : i.format = .cmd32) (s : State) :
    (∃ r, exec i s = .next (s.respond r)) ∨
    (∃ a d, i = .wr a d ∧ exec i s = .next ((memWrite s a d).respond 0x0000)) ∨
    (i = .tick ∧ exec i s = .next (tickResult s)) := by
  cases i with
  | nop => exact .inl ⟨_, rfl⟩
  | rd a => exact .inl ⟨_, exec_rd_eq s a⟩
  | wr a d => exact .inr (.inl ⟨a, d, rfl, exec_wr_eq s a d⟩)
  | tick => exact .inr (.inr ⟨rfl, exec_tick s⟩)
  | waveTri | waveSaw | wavePulse | waveNoise | waveSine | waveAbsSine | waveQSine
  | waveSilence _ => cases format

/-- A command completes, answers once, keeps the port and leaves nothing in flight (R38, R78, R200). -/
theorem exec_command {i : Instr} (format : i.format = .cmd32) (s : State) :
    ∃ t r, exec i s = .next t ∧ t.port = s.port ∧ t.out = s.out ++ [r] ∧
      (s.tick = .idle → t.tick = .idle) := by
  rcases exec_command_cases format s with ⟨r, e⟩ | ⟨a, d, -, e⟩ | ⟨-, e⟩
  · exact ⟨_, r, e, rfl, rfl, id⟩
  · exact ⟨_, 0x0000, e, by simp, by simp, by simp⟩
  · exact ⟨_, _, e, tickResult_port s, tickResult_out s, fun _ => tickResult_tick s⟩

theorem memWrite_setPort (s : State) (p : List Event) (a : RegAddr) (d : Half) :
    memWrite (s.setPort p) a d = (memWrite s a d).setPort p := by
  unfold memWrite
  split <;> rfl

/-- No command reads what waits at the port behind it (R64). -/
theorem exec_command_setPort {i : Instr} (format : i.format = .cmd32) (s : State)
    (p : List Event) : exec i (s.setPort p) = mapNext (fun t => t.setPort p) (exec i s) := by
  cases i with
  | nop | rd _ | tick => rfl
  | wr a d => rw [exec_wr_eq, exec_wr_eq, memWrite_setPort]; rfl
  | waveTri | waveSaw | wavePulse | waveNoise | waveSine | waveAbsSine | waveQSine
  | waveSilence _ => cases format

/-! ### Voice slots and the seed -/

/-- A slot of a voice block lies below the global block (R51). -/
theorem slotAddr_ne (v f : Fin 8) {a : RegAddr} (h : 0x40 ≤ a.toNat) : slotAddr v f ≠ a := by
  intro e
  have := toNat_slotAddr_lt v f
  rw [e] at this
  omega

/-- Only the two seed addresses reach `SEED` (R54, R58). -/
theorem memWrite_seed_of_ne (s : State) {a : RegAddr} (d : Half) (low : a ≠ 0x40)
    (high : a ≠ 0x41) : (memWrite s a d).seed = s.seed := by
  rcases memWrite_cases s a d with e | ⟨v, x, e, -⟩ | ⟨seedAddr, -⟩
  · rw [e]
  · rw [e, State.setVoice_seed]
  · exact absurd seedAddr (not_or.2 ⟨low, high⟩)

end Sys2Proof.Machine
end

section
/-! SUPPORT. One step of the machine, case by case (20_memory.md R64, 40_commands.md R103). -/

namespace Sys2Proof.Machine

/-! ### Stage 2 for one voice -/

/-- The locals of a TICK once voice `v`, with registers `x`, has been evaluated (R103 stage 2). -/
def Locals.evaluate (l : Locals) (v : Fin 8) (x : Voice) : Locals :=
  closeVoice v x { l with raw := l.raw.set v (rawOf x l.nz) }

/-- The voice under evaluation gets the values of stage 2. -/
theorem evaluatedOk_evaluate_self (s : State) (l : Locals) (v : Fin 8) :
    evaluatedOk s (l.evaluate v (s.voice v)) v := by
  simp [evaluatedOk, Locals.evaluate, closeVoice, crushedOf, scaledOf]

/-- The voices evaluated before keep theirs. -/
theorem evaluatedOk_evaluate_of_ne {s : State} {l : Locals} {u v : Fin 8} (h : u ≠ v)
    (done : evaluatedOk s l u) : evaluatedOk s (l.evaluate v (s.voice v)) u := by
  obtain ⟨raw, cr, sc⟩ := done
  simp only [evaluatedOk, Locals.evaluate, closeVoice, Eight.get_set_of_ne _ h]
  exact ⟨raw, cr, sc⟩

/-- Once every voice is evaluated the locals are those that a whole TICK forms. -/
theorem eq_evaluateAll_of_evaluatedOk {s : State} {l : Locals} (done : ∀ u, evaluatedOk s l u) :
    l = evaluateAll s.voices l.nz := by
  have raw : l.raw = (evaluateAll s.voices l.nz).raw :=
    Eight.ext_get fun u => by
      obtain ⟨done, -, -⟩ := done u
      rw [evaluateAll_raw, done]
      rfl
  have cr : l.cr = (evaluateAll s.voices l.nz).cr :=
    Eight.ext_get fun u => by
      obtain ⟨-, done, -⟩ := done u
      rw [evaluateAll_cr, done]
      rfl
  have sc : l.sc = (evaluateAll s.voices l.nz).sc :=
    Eight.ext_get fun u => by
      obtain ⟨-, -, done⟩ := done u
      rw [evaluateAll_sc, done]
      rfl
  cases l
  simp only at raw cr sc
  subst raw cr sc
  rfl

/-! ### The cases of a step -/

/-- In stage 2 the tag of the voice under evaluation sets its raw value (R81, R140). -/
theorem exec_tag_of_evaluate {s : State} {v : Fin 8} {l : Locals} (stage : s.tick = .evaluate v l) :
    exec (decodeWave (s.voice v).wave) s =
      .next (s.setTick (.evaluate v { l with raw := l.raw.set v (rawOf (s.voice v) l.nz) })) := by
  rw [exec_of_setRaw (exec_decodeWave _ s) stage]
  rfl

/-- In stage 2 a step runs the tag of the voice under evaluation (R81). -/
theorem step_eq_exec_tag {s : State} {v : Fin 8} {l : Locals} (stage : s.tick = .evaluate v l) :
    step s = mapNext afterInstr (exec (decodeWave (s.voice v).wave) s) := by
  simp only [step, fetched, stage]
  rfl

/-- In stage 2 a step evaluates one voice and moves on (R103). -/
theorem step_of_evaluate {s : State} {v : Fin 8} {l : Locals} (stage : s.tick = .evaluate v l) :
    step s = .next (s.setTick (Tick.after v (l.evaluate v (s.voice v)))) := by
  rw [step_eq_exec_tag stage, exec_tag_of_evaluate stage, mapNext_next,
    afterInstr_of_evaluate (State.setTick_tick _ _)]
  rfl

theorem step_of_finish {s : State} {l : Locals} (stage : s.tick = .finish l) :
    step s = .next (finishTick l s) := by
  simp only [step, fetched, betweenInstr, stage]

section
variable {s : State} (idle : s.tick = .idle)
include idle

/-- Between two commands the oldest command is taken and run (R64). -/
theorem step_of_command {w : Command} {rest : List Event} (port : s.port = .command w :: rest) :
    step s = exec (decodeCommand w) (s.setPort rest) := by
  obtain ⟨t, -, e, -, -, keepsIdle⟩ := exec_command (format_decodeCommand w) (s.setPort rest)
  have run : step s = mapNext afterInstr (exec (decodeCommand w) (s.setPort rest)) := by
    simp only [step, fetched, idle, port]
    rfl
  rw [run, e, mapNext_next, afterInstr_of_idle (keepsIdle idle)]

theorem step_of_reset {rest : List Event} (port : s.port = .reset :: rest) :
    step s = .next (s.setPort rest).takeReset := by
  simp only [step, fetched, betweenInstr, idle, port]

theorem step_setPort_command (w : Command) (rest : List Event) :
    step (s.setPort (.command w :: rest)) = exec (decodeCommand w) (s.setPort rest) :=
  step_of_command (s := s.setPort (.command w :: rest)) idle rfl

theorem step_setPort_reset (rest : List Event) :
    step (s.setPort (.reset :: rest)) = .next (s.setPort rest).takeReset :=
  step_of_reset (s := s.setPort (.reset :: rest)) idle rfl

theorem step_of_collision {a b : Command} {rest : List Event}
    (port : s.port = .collision a b :: rest) : step s = .refused .concurrentAccess := by
  simp only [step, fetched, betweenInstr, idle, port]

theorem step_of_nothing (port : s.port = []) : step s = .next s := by
  simp only [step, fetched, betweenInstr, idle, port]

end

/-- Everything a step can do: one voice of stage 2, the end of a TICK, a command, RESET, the refusal of
concurrent access, or nothing. -/
theorem step_cases (s : State) :
    (∃ v l, s.tick = .evaluate v l ∧
      step s = .next (s.setTick (Tick.after v (l.evaluate v (s.voice v))))) ∨
    (∃ l, s.tick = .finish l ∧ step s = .next (finishTick l s)) ∨
    (s.tick = .idle ∧ ∃ w rest, s.port = .command w :: rest ∧
      step s = exec (decodeCommand w) (s.setPort rest)) ∨
    (s.tick = .idle ∧ ∃ rest, s.port = .reset :: rest ∧
      step s = .next (s.setPort rest).takeReset) ∨
    (s.tick = .idle ∧ ∃ a b rest, s.port = .collision a b :: rest ∧
      step s = .refused .concurrentAccess) ∨
    (s.tick = .idle ∧ s.port = [] ∧ step s = .next s) := by
  cases stage : s.tick with
  | evaluate v l => exact .inl ⟨v, l, rfl, step_of_evaluate stage⟩
  | finish l => exact .inr (.inl ⟨l, rfl, step_of_finish stage⟩)
  | idle =>
    refine .inr (.inr ?_)
    cases port : s.port with
    | nil => exact .inr (.inr (.inr ⟨rfl, rfl, step_of_nothing stage port⟩))
    | cons e rest =>
      cases e with
      | command w => exact .inl ⟨rfl, w, rest, rfl, step_of_command stage port⟩
      | reset => exact .inr (.inl ⟨rfl, rest, rfl, step_of_reset stage port⟩)
      | collision a b => exact .inr (.inr (.inl ⟨rfl, a, b, rest, rfl, step_of_collision stage port⟩))

/-- Two agents at the one port between two commands, as the oldest event (R231). -/
def State.Collides (s : State) : Prop :=
  s.tick = .idle ∧ ∃ a b rest, s.port = .collision a b :: rest

/-- A step completes exactly where no two agents meet: every command completes (R200, R231). -/
theorem step_completes_or_collides (s : State) :
    (∃ t, step s = .next t ∧ ¬ s.Collides) ∨ (step s = .refused .concurrentAccess ∧ s.Collides) := by
  rcases step_cases s with ⟨v, l, stage, e⟩ | ⟨l, stage, e⟩ | ⟨-, w, rest, port, e⟩ |
    ⟨-, rest, port, e⟩ | ⟨idle, a, b, rest, port, e⟩ | ⟨-, port, e⟩
  · exact .inl ⟨_, e, by simp [State.Collides, stage]⟩
  · exact .inl ⟨_, e, by simp [State.Collides, stage]⟩
  · obtain ⟨t, -, run, -⟩ := exec_command (format_decodeCommand w) (s.setPort rest)
    exact .inl ⟨t, e.trans run, by simp [State.Collides, port]⟩
  · exact .inl ⟨_, e, by simp [State.Collides, port]⟩
  · exact .inr ⟨e, idle, a, b, rest, port⟩
  · exact .inl ⟨_, e, by simp [State.Collides, port]⟩

/-- A step leaves the port whole or, between two commands, takes its oldest event (R64). -/
theorem port_of_step {s t : State} (h : step s = .next t) :
    t.port = s.port ∨ ∃ e, s.port = e :: t.port ∧ s.tick = .idle := by
  rcases step_cases s with ⟨v, l, -, e⟩ | ⟨l, -, e⟩ | ⟨idle, w, rest, port, e⟩ |
    ⟨idle, rest, port, e⟩ | ⟨-, a, b, rest, -, e⟩ | ⟨-, -, e⟩ <;> rw [h] at e
  · cases e
    exact .inl rfl
  · cases e
    exact .inl rfl
  · obtain ⟨t', -, run, left, -⟩ := exec_command (format_decodeCommand w) (s.setPort rest)
    cases e.trans run
    rw [State.setPort_port] at left
    exact .inr ⟨_, left ▸ port, idle⟩
  · cases e
    exact .inr ⟨_, port, idle⟩
  · cases e
  · cases e
    exact .inl rfl

/-! ### Runs -/

theorem core_run_succ {s t : State} (h : step s = .next t) (k : Nat) :
    Sys2Proof.core.run (k + 1) s = Sys2Proof.core.run k t := by
  have stepped : Sys2Proof.core.step s = .next t := h
  simp only [Host.Core.run, stepped]

theorem execAll_cons {i : Instr} {s t : State} (h : exec i s = .next t) (is : List Instr) :
    execAll (i :: is) s = execAll is t := by
  simp only [execAll, h]

end Sys2Proof.Machine
end

section
/-! SUPPORT. The invariant of the block (10_state.md R36, 40_commands.md R103): what the read-only latches
hold, and how far a TICK in progress has come. -/

namespace Sys2Proof.Machine

theorem tickOk_of_idle {s : State} (idle : s.tick = .idle) : tickOk s := by
  simp only [tickOk, idle]

theorem tickOk_evaluate_iff {s : State} {v : Fin 8} {l : Locals} (stage : s.tick = .evaluate v l) :
    tickOk s ↔ l.nz = noiseValue s.seed ∧ ∀ u : Fin 8, u.val < v.val → evaluatedOk s l u := by
  simp only [tickOk, stage]

theorem tickOk_finish_iff {s : State} {l : Locals} (stage : s.tick = .finish l) :
    tickOk s ↔ l.nz = noiseValue s.seed ∧ ∀ u : Fin 8, evaluatedOk s l u := by
  simp only [tickOk, stage]

theorem Tick.after_of_lt {v : Fin 8} (h : v.val + 1 < 8) (l : Locals) :
    Tick.after v l = .evaluate ⟨v.val + 1, h⟩ l := dif_pos h

theorem Tick.after_of_last {v : Fin 8} (h : ¬ v.val + 1 < 8) (l : Locals) :
    Tick.after v l = .finish l := dif_neg h

/-- Evaluating one more voice keeps a TICK in progress as R103 says. -/
theorem tickOk_after_evaluate {s : State} {v : Fin 8} {l : Locals} (stage : s.tick = .evaluate v l)
    (ok : tickOk s) : tickOk (s.setTick (Tick.after v (l.evaluate v (s.voice v)))) := by
  obtain ⟨noise, done⟩ := (tickOk_evaluate_iff stage).1 ok
  have upTo (u : Fin 8) (h : u.val < v.val + 1) : evaluatedOk s (l.evaluate v (s.voice v)) u := by
    by_cases same : u = v
    · subst same
      exact evaluatedOk_evaluate_self s l u
    · have below : u.val < v.val := by omega
      exact evaluatedOk_evaluate_of_ne same (done u below)
  by_cases notLast : v.val + 1 < 8
  · rw [Tick.after_of_lt notLast]
    exact ⟨noise, upTo⟩
  · rw [Tick.after_of_last notLast]
    exact ⟨noise, fun u => upTo u (by omega)⟩

/-- The invariant of a state whose latches are those of one that meets it. -/
theorem State.Inv.of_same_latches {s t : State} (inv : s.Inv)
    (scaled : ∀ v, (t.voice v).scaled = (s.voice v).scaled) (sample : t.sample = s.sample)
    (ticks : tickOk t) : t.Inv where
  latches v := by
    rw [latchOk, scaled]
    exact inv.latches v
  sample := sample ▸ inv.sample
  ticks := ticks

/-- The end of a TICK sets all latches anew, from scaled values in range (R150, R175). -/
theorem inv_finishTick {l : Locals} (range : ∀ v, scaledRange (l.sc.get v)) (s : State) :
    (finishTick l s).Inv where
  latches v := by
    have scaled : ((finishTick l s).voice v).scaled.toInt = l.sc.get v := by
      obtain ⟨low, high⟩ := range v
      rw [finishTick_voice]
      exact toInt_sext16 (by omega) (by omega)
    rw [latchOk, scaled]
    exact range v
  sample := mixSample_ok range
  ticks := tickOk_of_idle rfl

theorem inv_tickResult (s : State) : (tickResult s).Inv := inv_finishTick (tickScaled_range s) _

theorem inv_takeReset (s : State) : s.takeReset.Inv where
  latches v := by
    rw [latchOk, State.takeReset_voice]
    decide
  sample := by
    rw [State.takeReset_sample]
    decide
  ticks := tickOk_of_idle rfl

/-- The scaled values that a TICK in progress ends stage 2 with are in range. -/
theorem scaledRange_of_tickOk_finish {s : State} {l : Locals} (stage : s.tick = .finish l)
    (ok : tickOk s) (v : Fin 8) : scaledRange (l.sc.get v) := by
  obtain ⟨noise, done⟩ := (tickOk_finish_iff stage).1 ok
  obtain ⟨-, -, scaled⟩ := done v
  rw [scaled, noise]
  exact scaledOf_range _ (noiseValue_range _)

/-- A command between two commands keeps the invariant: only TICK sets a latch (R55). -/
theorem inv_of_exec_command {i : Instr} (format : i.format = .cmd32) {s t : State} (inv : s.Inv)
    (idle : s.tick = .idle) (h : exec i s = .next t) : t.Inv := by
  rcases exec_command_cases format s with ⟨r, e⟩ | ⟨a, d, -, e⟩ | ⟨-, e⟩ <;>
    cases h.symm.trans e
  · exact inv.of_same_latches (fun _ => rfl) rfl (tickOk_of_idle idle)
  · exact inv.of_same_latches (memWrite_scaled s a d) (memWrite_sample s a d)
      (tickOk_of_idle ((memWrite_tick s a d).trans idle))
  · exact inv_tickResult s

theorem inv_of_step {s t : State} (inv : s.Inv) (h : step s = .next t) : t.Inv := by
  rcases step_cases s with ⟨v, l, stage, e⟩ | ⟨l, stage, e⟩ | ⟨idle, w, rest, -, e⟩ |
    ⟨-, rest, -, e⟩ | ⟨-, a, b, rest, -, e⟩ | ⟨-, -, e⟩ <;> rw [h] at e
  · cases e
    exact inv.of_same_latches (fun _ => rfl) rfl (tickOk_after_evaluate stage inv.ticks)
  · cases e
    exact inv_finishTick (scaledRange_of_tickOk_finish stage inv.ticks) s
  · have taken : (s.setPort rest).Inv :=
      inv.of_same_latches (fun _ => rfl) rfl (tickOk_of_idle idle)
    exact inv_of_exec_command (format_decodeCommand w) taken idle e.symm
  · cases e
    exact inv_takeReset _
  · cases e
  · cases e
    exact inv

/-! ### The stages of a TICK in a row -/

/-- From voice `v` of stage 2 the machine evaluates the `n` voices left and then ends the TICK. -/
theorem core_run_of_evaluate (n : Nat) : ∀ {s : State} {v : Fin 8} {l : Locals},
    s.tick = .evaluate v l → tickOk s → v.val + n = 8 →
    Sys2Proof.core.run (n + 1) s =
      .next (finishTick (evaluateAll s.voices (noiseValue s.seed)) s) := by
  induction n with
  | zero =>
    intro s v l _ _ count
    omega
  | succ n ih =>
    intro s v l stage ok count
    have ok' := tickOk_after_evaluate stage ok
    rw [core_run_succ (step_of_evaluate stage)]
    by_cases notLast : v.val + 1 < 8
    · rw [Tick.after_of_lt notLast] at ok' ⊢
      exact ih rfl ok' (by simp only; omega)
    · rw [Tick.after_of_last notLast] at ok' ⊢
      obtain ⟨noise, done⟩ := (tickOk_finish_iff rfl).1 ok'
      obtain rfl : n = 0 := by omega
      rw [core_run_succ (step_of_finish rfl), eq_evaluateAll_of_evaluatedOk done, noise]
      rfl

end Sys2Proof.Machine
end

section
/-! SUPPORT. The command port (20_memory.md R64): commands run in the order sent, and each event of one
host is taken whole. -/

namespace Sys2Proof.Machine

/-- As many steps as there are commands run them in order, whatever waits behind them. -/
theorem core_run_commands (ws : List Command) (more : List Event) : ∀ {s : State}, s.tick = .idle →
    Sys2Proof.core.run ws.length (s.setPort (ws.map Event.command ++ more)) =
      execAll (ws.map decodeCommand) (s.setPort more) := by
  induction ws with
  | nil => exact fun _ => rfl
  | cons w ws ih =>
    intro s idle
    have format := format_decodeCommand w
    obtain ⟨t, -, e, -, -, keepsIdle⟩ := exec_command format s
    have behind (p : List Event) : exec (decodeCommand w) (s.setPort p) = .next (t.setPort p) := by
      rw [exec_command_setPort format, e, mapNext_next]
    have first : step (s.setPort ((w :: ws).map Event.command ++ more)) =
        .next (t.setPort (ws.map Event.command ++ more)) :=
      (step_setPort_command idle w _).trans (behind _)
    rw [List.length_cons, core_run_succ first, ih (keepsIdle idle), List.map_cons,
      execAll_cons (behind more)]

/-- One event of one host is taken in one step; a command adds one response and RESET none. -/
theorem step_of_event {e : Event} (single : e.isCollision = false) {s : State}
    (idle : s.tick = .idle) (rest : List Event) :
    ∃ t added, step (s.setPort (e :: rest)) = .next t ∧ t.tick = .idle ∧ t.port = rest ∧
      t.out = s.out ++ added ∧ added.length = ([e].filter Event.isCommand).length := by
  cases e with
  | command w =>
    obtain ⟨t, r, e, port, out, keepsIdle⟩ :=
      exec_command (format_decodeCommand w) (s.setPort rest)
    have first : step (s.setPort (.command w :: rest)) = .next t :=
      (step_setPort_command idle w rest).trans e
    exact ⟨t, [r], first, keepsIdle idle, port, out, rfl⟩
  | reset =>
    exact ⟨_, [], step_setPort_reset idle rest, rfl, rfl, (List.append_nil _).symm, rfl⟩
  | collision a b => cases single

/-- As many steps as there are events take them all, with one response per command. -/
theorem core_run_events (es : List Event) (more : List Event) : ∀ {s : State}, s.tick = .idle →
    (∀ e ∈ es, e.isCollision = false) →
    ∃ t added, Sys2Proof.core.run es.length (s.setPort (es ++ more)) = .next t ∧
      t.tick = .idle ∧ t.port = more ∧
      t.out = s.out ++ added ∧ added.length = (es.filter Event.isCommand).length := by
  induction es with
  | nil =>
    intro s idle _
    exact ⟨s.setPort more, [], rfl, idle, rfl, (List.append_nil _).symm, rfl⟩
  | cons e es ih =>
    intro s idle single
    obtain ⟨headSingle, tailSingle⟩ := List.forall_mem_cons.1 single
    obtain ⟨t, added, first, tIdle, tPort, tOut, count⟩ :=
      step_of_event headSingle idle (es ++ more)
    obtain ⟨u, more', run, uIdle, uPort, uOut, count'⟩ := ih tIdle tailSingle
    have port : t.setPort (es ++ more) = t := by
      rw [← tPort]
      rfl
    refine ⟨u, added ++ more', ?_, uIdle, uPort, ?_, ?_⟩
    · rw [List.cons_append, List.length_cons, core_run_succ first, ← port, run]
    · rw [uOut, tOut, List.append_assoc]
    · rw [List.length_append, count, count', ← List.length_append, ← List.filter_append,
        List.singleton_append]

end Sys2Proof.Machine
end

section
/-! The statements about decoding, steps, the command port and the invariant. -/

namespace Sys2Proof.Machine

/-- Settles O1: by the format of the instruction; a Silence tag needs well-formedness. -/
theorem decodeOfEncodeIsTheInstruction : Obligations.DecodeOfEncodeIsTheInstruction :=
  fun _ => decode_encode

/-- Settles O50: by the cases of a step; only the end of a TICK and RESET set a latch. -/
theorem stepKeepsTheInvariant : Obligations.StepKeepsTheInvariant :=
  fun _ _ => inv_of_step

/-- Settles O6: the tag's case sets the raw value of R140, and the step then closes the voice. -/
theorem stepInsideTickRunsTheTag : Obligations.StepInsideTickRunsTheTag :=
  fun _ _ _ stage => ⟨exec_tag_of_evaluate stage, step_of_evaluate stage⟩

/-- Settles O10: by the cases of a step; a command completes, so only a collision is refused. -/
theorem onlyConcurrentAccessIsRefused : Obligations.OnlyConcurrentAccessIsRefused := by
  intro s
  rcases step_completes_or_collides s with ⟨t, e, other⟩ | ⟨e, collides⟩
  · refine ⟨⟨fun refused => ?_, fun collides => absurd collides other⟩, fun _ => ⟨t, e⟩⟩
    rw [e] at refused
    cases refused
  · exact ⟨⟨fun _ => collides, fun _ => e⟩, fun other => absurd collides other⟩

/-- Settles O11: no collision is the oldest event, and a step takes that event or none. -/
theorem singleHostIsNeverRefused : Obligations.SingleHostIsNeverRefused := by
  intro s sole
  rcases step_completes_or_collides s with ⟨t, e, -⟩ | ⟨-, -, a, b, rest, port⟩
  · have taken := port_of_step e
    refine ⟨t, e, fun event mem => sole event ?_, taken⟩
    rcases taken with whole | ⟨oldest, port, -⟩
    · exact whole ▸ mem
    · exact port ▸ List.mem_cons_of_mem oldest mem
  · have := sole (.collision a b) (by simp [port])
    cases this

/-- Settles O12: the steps of stage 2 and of the end of a TICK mention the port nowhere. -/
theorem insideTickThePortIsNotSeen : Obligations.InsideTickThePortIsNotSeen := by
  intro s p inside
  cases stage : s.tick with
  | idle => exact absurd stage inside
  | evaluate v l =>
    have other : (s.setPort p).tick = .evaluate v l := stage
    rw [step_of_evaluate other, step_of_evaluate stage]
    exact ⟨rfl, _, rfl, rfl⟩
  | finish l =>
    have other : (s.setPort p).tick = .finish l := stage
    rw [step_of_finish other, step_of_finish stage]
    exact ⟨rfl, _, rfl, rfl⟩

/-- Settles O13: by induction on the commands; each runs whole and does not see those behind it. -/
theorem commandsRunInOrder : Obligations.CommandsRunInOrder :=
  fun ws more _ idle => core_run_commands ws more idle

/-- Settles O14: by induction on the events; the responses of each are appended to those before. -/
theorem eachCommandIsAnsweredOnce : Obligations.EachCommandIsAnsweredOnce := by
  intro es more s idle single
  obtain ⟨t, added, run, tIdle, port, out, count⟩ := core_run_events es more idle single
  refine ⟨t, run, tIdle, port, ?_, ?_⟩
  · rw [out, List.take_left']
    rfl
  · rw [out, List.length_append, count]

/-- Settles O49: from voice 0 the eight voices are evaluated in turn, and the last step ends the TICK. -/
theorem stagesOfTickAreTheTick : Obligations.StagesOfTickAreTheTick := by
  intro s
  have started : tickOk (beginTick s) := ⟨rfl, fun u below => absurd below (Nat.not_lt_zero _)⟩
  rw [core_run_of_evaluate 8 rfl started rfl]
  rfl

/-- Settles O52: a command answers and leaves nothing in flight, a waveform case sets a raw value. -/
theorem everyInstructionCompletes : Obligations.EveryInstructionCompletes := by
  intro i s
  cases format : i.format with
  | cmd32 =>
    obtain ⟨t, -, e, port, -, keepsIdle⟩ := exec_command format s
    exact ⟨t, e, port, fun _ => keepsIdle⟩
  | wave8 =>
    obtain ⟨f, meaning, -⟩ := exec_of_wave8 format
    exact ⟨_, meaning s, State.setRaw_port s f, fun command => by cases command⟩

/-- Settles O32: a waveform case is the setting of a raw value, in stage 2 and outside it. -/
theorem waveformsHaveNoSideEffects : Obligations.WaveformsHaveNoSideEffects := by
  intro i s format
  obtain ⟨f, meaning, range⟩ := exec_of_wave8 format
  refine ⟨fun v l stage => ⟨f (s.voice v) l.nz, ?_, range _ _⟩, fun outside => ?_⟩
  · exact exec_of_setRaw (meaning s) stage
  · rw [meaning, State.setRaw_of_not_evaluate outside]

/-- Settles O26: only TICK and a write to one of the two seed addresses reach SEED. -/
theorem onlyTickAndSeedWritesChangeSeed : Obligations.OnlyTickAndSeedWritesChangeSeed := by
  refine ⟨fun s => ⟨_, exec_tick s, rfl⟩, fun i notTick notLow notHigh s => ?_⟩
  cases format : i.format with
  | cmd32 =>
    rcases exec_command_cases format s with ⟨r, e⟩ | ⟨a, d, rfl, e⟩ | ⟨tick, -⟩
    · exact ⟨_, e, rfl⟩
    · refine ⟨_, e, memWrite_seed_of_ne s d ?_ ?_⟩
      · rintro rfl
        exact notLow d rfl
      · rintro rfl
        exact notHigh d rfl
    · exact absurd tick notTick
  | wave8 =>
    obtain ⟨f, meaning, -⟩ := exec_of_wave8 format
    exact ⟨_, meaning s, State.setRaw_seed s f⟩

/-- Settles O4: eleven words, each decoded by evaluation. -/
theorem writtenOutWordsDecode : Obligations.WrittenOutWordsDecode := by
  unfold Obligations.WrittenOutWordsDecode
  decide

/-- Settles O5: nothing follows the instruction, since a command ends between two commands. -/
theorem stepRunsTheOldestCommand : Obligations.StepRunsTheOldestCommand :=
  fun _ _ _ idle port => step_of_command idle port

/-- Settles O7: a command is placed between two commands, a tag in stage 2 at voice 0. -/
theorem placedWordIsRunNext : Obligations.PlacedWordIsRunNext := by
  intro s w
  refine ⟨step_of_command rfl rfl, rfl, ?_⟩
  have tag : ((s.withFetchWord 8 w).voice 0).wave = BitVec.ofNat 8 w := rfl
  rw [step_eq_exec_tag rfl, tag]

/-- Settles O8: RESET is taken from the port, and every register is at its reset value. -/
theorem resetSetsEveryRegister : Obligations.ResetSetsEveryRegister :=
  fun _ _ idle port =>
    ⟨_, step_of_reset idle port, State.takeReset_voice _, rfl, rfl, rfl, rfl⟩

/-- Settles O9: there is no event to take. -/
theorem nothingSentNothingChanges : Obligations.NothingSentNothingChanges :=
  fun _ idle port => step_of_nothing idle port

/-- Settles O51: location by location; every slot of a voice block reads 0. -/
theorem resetMeetsTheInvariant : Obligations.ResetMeetsTheInvariant := by
  refine ⟨inv_takeReset State.reset, rfl, fun a => ?_⟩
  rcases addr_cases a with ⟨v, f, rfl⟩ | rfl | rfl | rfl | reserved
  · have zero : Voice.reset.readSlot f = 0x0000 := by
      match f with
      | 0 | 1 | 2 | 3 | 4 | 5 | 6 | 7 => rfl
    have voice : State.reset.voice v = Voice.reset := State.takeReset_voice State.reset v
    rw [memRead_slotAddr, voice, zero, if_neg (slotAddr_ne v f (by decide)),
      if_neg (slotAddr_ne v f (by decide))]
  · rfl
  · rfl
  · rfl
  · rw [memRead_reserved _ reserved, if_neg, if_neg]
    · rintro rfl
      exact absurd reserved (by decide)
    · rintro rfl
      exact absurd reserved (by decide)

end Sys2Proof.Machine
end

section
/-! SUPPORT. The frame of a write and its repetition (20_memory.md R54, R58, section 4): each location on
its own, the seed by halves. -/

namespace Sys2Proof.Machine

/-! ### Other locations -/

/-- Writing one slot of a voice block leaves the seven others (R54). -/
theorem Voice.readSlot_writeSlot_of_ne (x : Voice) {f g : Fin 8} (h : g ≠ f) (d : Half) :
    (x.writeSlot f d).readSlot g = x.readSlot g := by
  match f with
  | 0 => match g with | 0 => exact absurd rfl h | 1 | 2 | 3 | 4 | 5 | 6 | 7 => rfl
  | 1 => match g with | 1 => exact absurd rfl h | 0 | 2 | 3 | 4 | 5 | 6 | 7 => rfl
  | 2 => match g with | 2 => exact absurd rfl h | 0 | 1 | 3 | 4 | 5 | 6 | 7 => rfl
  | 3 => match g with | 3 => exact absurd rfl h | 0 | 1 | 2 | 4 | 5 | 6 | 7 => rfl
  | 4 => match g with | 4 => exact absurd rfl h | 0 | 1 | 2 | 3 | 5 | 6 | 7 => rfl
  | 5 => match g with | 5 => exact absurd rfl h | 0 | 1 | 2 | 3 | 4 | 6 | 7 => rfl
  | 6 | 7 => rfl

/-- A write to the global block reaches no voice (R54). -/
theorem memWrite_voice_of_global (s : State) {a : RegAddr} (h : 0x40 ≤ a.toNat) (d : Half)
    (v : Fin 8) : (memWrite s a d).voice v = s.voice v := by
  rcases addr_cases a with ⟨u, f, rfl⟩ | rfl | rfl | rfl | reserved
  · exact absurd rfl (slotAddr_ne u f h)
  · rfl
  · rfl
  · rfl
  · rw [memWrite_reserved s reserved]

/-- A slot is written at its own address only (R54). -/
theorem memWrite_readSlot_of_ne (s : State) {a : RegAddr} {v f : Fin 8} (h : slotAddr v f ≠ a)
    (d : Half) : ((memWrite s a d).voice v).readSlot f = (s.voice v).readSlot f := by
  by_cases global : 0x40 ≤ a.toNat
  · rw [memWrite_voice_of_global s global]
  rcases addr_cases a with ⟨u, g, rfl⟩ | rfl | rfl | rfl | reserved
  · rw [memWrite_slotAddr]
    by_cases same : v = u
    · subst same
      have other : f ≠ g := fun e => h (e ▸ rfl)
      rw [State.setVoice_voice_self, Voice.readSlot_writeSlot_of_ne _ other]
    · rw [State.setVoice_voice_of_ne _ _ _ same]
  · exact absurd (by decide) global
  · exact absurd (by decide) global
  · exact absurd (by decide) global
  · exact absurd (by omega) global

/-- The low half of the seed is written at its own address only (R58). -/
theorem memWrite_seedLow_of_ne (s : State) {a : RegAddr} (h : a ≠ 0x40) (d : Half) :
    seedLow (memWrite s a d).seed = seedLow s.seed := by
  by_cases high : a = 0x41
  · subst high
    exact seedLow_append d _
  · rw [memWrite_seed_of_ne s d h high]

/-- The high half of the seed is written at its own address only (R58). -/
theorem memWrite_seedHigh_of_ne (s : State) {a : RegAddr} (h : a ≠ 0x41) (d : Half) :
    seedHigh (memWrite s a d).seed = seedHigh s.seed := by
  by_cases low : a = 0x40
  · subst low
    exact seedHigh_append _ d
  · rw [memWrite_seed_of_ne s d low h]

/-- A write changes what one address reads as, at most (R54). -/
theorem memRead_memWrite_of_ne (s : State) {a b : RegAddr} (h : b ≠ a) (d : Half) :
    memRead (memWrite s a d) b = memRead s b := by
  rcases addr_cases b with ⟨v, f, rfl⟩ | rfl | rfl | rfl | reserved
  · rw [memRead_slotAddr, memRead_slotAddr, memWrite_readSlot_of_ne s h]
  · exact memWrite_seedLow_of_ne s h.symm d
  · exact memWrite_seedHigh_of_ne s h.symm d
  · exact memWrite_sample s a d
  · rw [memRead_reserved _ reserved, memRead_reserved _ reserved]

/-! ### Repetition -/

theorem Voice.writeSlot_writeSlot (x : Voice) (f : Fin 8) (d : Half) :
    (x.writeSlot f d).writeSlot f d = x.writeSlot f d := by
  match f with
  | 0 | 1 | 2 | 3 | 4 | 5 | 6 | 7 => rfl

@[simp] theorem State.setVoice_setVoice (s : State) (v : Fin 8) (x y : Voice) :
    (s.setVoice v x).setVoice v y = s.setVoice v y := by
  simp [State.setVoice]

/-- The same write again changes nothing (20_memory.md section 4). -/
theorem memWrite_memWrite (s : State) (a : RegAddr) (d : Half) :
    memWrite (memWrite s a d) a d = memWrite s a d := by
  rcases addr_cases a with ⟨v, f, rfl⟩ | rfl | rfl | rfl | reserved
  · simp only [memWrite_slotAddr, State.setVoice_voice_self, Voice.writeSlot_writeSlot,
      State.setVoice_setVoice]
  · simp [State.setSeed]
  · simp [State.setSeed]
  · rfl
  · simp only [memWrite_reserved _ reserved]

/-- A write does not read the responses given. -/
theorem memWrite_respond (s : State) (r : Half) (a : RegAddr) (d : Half) :
    memWrite (s.respond r) a d = (memWrite s a d).respond r := by
  unfold memWrite
  split <;> rfl

theorem respond_respond_eq (s : State) (r r' : Half) :
    (s.respond r).respond r' = { s with out := ((s.respond r).respond r').out } := rfl

/-! ### TICKs in a row, and the seed -/

theorem execAll_replicate_tick (k : Nat) (s : State) :
    execAll (List.replicate k .tick) s = .next (tickResult^[k] s) := by
  induction k generalizing s with
  | zero => rfl
  | succ k ih => rw [List.replicate_succ, execAll_cons (exec_tick s), ih, Function.iterate_succ_apply]

/-- Each TICK steps the generator once (R131). -/
theorem iterate_tickResult_seed (k : Nat) (s : State) :
    (tickResult^[k] s).seed = lfsrStep^[k] s.seed :=
  (show Function.Semiconj State.seed tickResult lfsrStep from tickResult_seed).iterate_right k s

/-- A seed that steps to itself has one bit 32 times, and the XOR of four equal bits is 0. -/
theorem lfsrStep_eq_self_iff (s : Seed) : lfsrStep s = s ↔ s = 0 := by
  constructor
  · intro fixed
    have equal : ∀ i < 32, s.getLsbD i = s.getLsbD 0 := by
      intro i
      induction i with
      | zero => exact fun _ => rfl
      | succ i ih =>
        intro below
        calc s.getLsbD (i + 1) = (lfsrStep s).getLsbD (i + 1) := by rw [fixed]
          _ = s.getLsbD i := lfsrStep_getLsbD_succ s (by omega)
          _ = s.getLsbD 0 := ih (by omega)
    have zero : s.getLsbD 0 = false := by
      rw [← fixed, lfsrStep_getLsbD_zero, lfsrFeedback_eq, equal 31 (by decide),
        equal 24 (by decide), equal 6 (by decide), equal 9 (by decide)]
      simp
    apply BitVec.eq_of_getLsbD_eq
    intro i below
    rw [equal i below, zero]
    exact BitVec.getLsbD_zero.symm
  · rintro rfl
    exact lfsrStep_zero

theorem seed_memWrite_seedHi (s : State) (d : Half) :
    (memWrite s 0x41 d).seed = d ++ seedLow s.seed := rfl

theorem seedHigh_eq_ofNat (x : Seed) : seedHigh x = BitVec.ofNat 16 (x.toNat / 65536) := by
  rw [← toNat_seedHigh, BitVec.ofNat_toNat, BitVec.setWidth_eq]

theorem seedLow_eq_ofNat (x : Seed) : seedLow x = BitVec.ofNat 16 x.toNat := rfl

/-- Writing both halves of a seed, high half first, loads it (70_reset_and_hazards.md section 3). -/
theorem execAll_wr_seed_halves (s : State) (x : Seed) :
    execAll [.wr 0x41 (seedHigh x), .wr 0x40 (seedLow x)] s =
      .next (((s.setSeed x).respond 0x0000).respond 0x0000) := by
  rw [execAll_cons (exec_wr_eq _ _ _), execAll_cons (exec_wr_eq _ _ _), memWrite_respond]
  simp [execAll, State.setSeed, seedHigh_append_seedLow]

end Sys2Proof.Machine
end

section
/-! The statements of 20_memory.md, 42_noise.md and 70_reset_and_hazards.md about writes and the seed. -/

namespace Sys2Proof.Machine

/-- Settles O18: a write reaches one slot or one half of the seed, and every other location is another
slot or half. -/
theorem writeLeavesOtherLocations : Obligations.WriteLeavesOtherLocations :=
  fun s a d => ⟨_, exec_wr_eq s a d, fun _ other => memRead_memWrite_of_ne s other d,
    memWrite_scaled s a d, memWrite_sample s a d, memWrite_tick s a d, memWrite_port s a d⟩

/-- Settles O20: a location holds what was written, and the one seed that TICK leaves is 0. -/
theorem readsAndWritesAreIdempotent : Obligations.ReadsAndWritesAreIdempotent := by
  refine ⟨fun s => ⟨_, rfl, respond_respond_eq s _ _⟩, fun s a => ⟨_, rfl, respond_respond_eq s _ _⟩,
    fun s a d => ⟨_, _, rfl, rfl, ?_⟩, fun s => ⟨_, exec_tick s, lfsrStep_eq_self_iff s.seed⟩,
    fun s => ⟨_, exec_tick s, fun v modulator => ?_⟩⟩
  · rw [memWrite_respond, memWrite_memWrite]
    rfl
  · rw [tickResult_phase, toNat_movePhase_phase_of_modulator _ _ modulator]

/-- Settles O21: each write keeps the other half, and TICK steps the seed that it finds. -/
theorem seedIsLoadedByHalves : Obligations.SeedIsLoadedByHalves := by
  refine ⟨fun s x => ?_, fun s h => ⟨_, rfl, ?_⟩, fun s k mixed => ?_⟩
  · rw [← seedHigh_eq_ofNat, ← seedLow_eq_ofNat, execAll_wr_seed_halves]
    exact ⟨_, rfl, rfl⟩
  · rw [← toNat_seedLow, ← half_append_eq_ofNat]
    rfl
  · refine ⟨_, (execAll_cons (exec_wr_eq s _ _) _).trans (execAll_replicate_tick k _), ?_⟩
    have zero : seedLow s.seed = 0 := BitVec.eq_of_toNat_eq ((toNat_seedLow s.seed).trans mixed)
    have loaded : ((memWrite s 0x41 0).respond 0x0000).seed = 0 := by
      rw [State.respond_seed, seed_memWrite_seedHi, zero]
      rfl
    rw [iterate_tickResult_seed, loaded, Function.iterate_fixed lfsrStep_zero]

/-- Settles O27: 0 steps to 0, whose low byte is read as -128. -/
theorem zeroSeedIsAbsorbing : Obligations.ZeroSeedIsAbsorbing := by
  intro s zero
  have noise : tickNoise s = -128 := by
    rw [tickNoise, zero]
    decide
  refine ⟨_, exec_tick s, ?_, fun v wave uncrushed => ?_⟩
  · rw [tickResult_seed, zero, lfsrStep_zero]
  · rw [tickResult_scaled, tickScaled_get, scaledOf_of_noise wave uncrushed, noise]

end Sys2Proof.Machine
end

section
/-! SUPPORT. How quicksin moves (41_sine.md section 3): it is odd and rising in the reduced phase, and the
reduction rises, falls and rises. -/

namespace Sys2Proof.Machine

/-- R122's product is odd, so opposite reduced phases differ by one floor. -/
theorem poly_add_poly_neg (y : Int) : poly y + poly (-y) = 0 ∨ poly y + poly (-y) = -1 := by
  rw [poly_eq_mul_polyU, poly_eq_mul_polyU, polyU_neg, neg_mul]
  omega

/-- The saturation of 128 to 127 keeps that: the value opposite to 128 is -128 (R124). -/
theorem clamp_add_clamp {a b : Int} (ha : -128 ≤ a ∧ a ≤ 128) (hb : -128 ≤ b ∧ b ≤ 128)
    (h : a + b = 0 ∨ a + b = -1) :
    clamp a (-128) 127 + clamp b (-128) 127 = 0 ∨ clamp a (-128) 127 + clamp b (-128) 127 = -1 := by
  unfold clamp
  omega

/-- Opposite reduced phases give opposite outputs, up to one unit (R125). -/
theorem quicksin_add_quicksin_of_reduce_neg {x z : Half} (h : reduce z.toNat = -reduce x.toNat) :
    quicksin x + quicksin z = 0 ∨ quicksin x + quicksin z = -1 := by
  obtain ⟨low, high⟩ := reduce_range x
  obtain ⟨zLow, zHigh⟩ := reduce_range z
  have opposite := poly_add_poly_neg (reduce x.toNat)
  rw [← h] at opposite
  exact clamp_add_clamp (poly_range low high) (poly_range zLow zHigh) opposite

theorem reduce_add_half (x : Half) : reduce (x + 32768).toNat = -reduce x.toNat := by
  have := x.isLt
  have half : (32768 : Half).toNat = 32768 := rfl
  rw [reduce_toNat, reduce_toNat, BitVec.toNat_add, half]
  split_ifs <;> omega

theorem reduce_neg (x : Half) : reduce (-x).toNat = -reduce x.toNat := by
  have := x.isLt
  rw [reduce_toNat, reduce_toNat, BitVec.toNat_neg]
  split_ifs <;> omega

theorem reduce_mirror {x : Half} (h : x.toNat ≤ 16384) : reduce (32768 - x).toNat = reduce x.toNat := by
  have half : (32768 : Half).toNat = 32768 := rfl
  rw [reduce_toNat, reduce_toNat, BitVec.toNat_sub, half]
  split_ifs <;> omega

/-- R122's product rises by each unit of a nonnegative reduced phase: `polyU` falls by at most 4, times less
than `2^14`, and is itself at least `2^16`. -/
theorem mul_polyU_le_succ {y : Int} (low : 0 ≤ y) (high : y + 1 ≤ 16384) :
    y * polyU y ≤ (y + 1) * polyU (y + 1) := by
  obtain ⟨atLeast, -⟩ := polyU_range (by omega : -16384 ≤ y + 1) high
  have fall : -4 ≤ polyU (y + 1) - polyU y := by
    have square : (y + 1) * (y + 1) = y * y + (2 * y + 1) := by ring
    rw [polyU_eq, polyU_eq, square]
    omega
  have loss : y * -4 ≤ y * (polyU (y + 1) - polyU y) := mul_le_mul_of_nonneg_left fall low
  have difference : (y + 1) * polyU (y + 1) - y * polyU y =
      polyU (y + 1) + y * (polyU (y + 1) - polyU y) := by ring
  omega

theorem mul_polyU_mono_of_nonneg {y z : Int} (low : 0 ≤ y) (le : y ≤ z) (high : z ≤ 16384) :
    y * polyU y ≤ z * polyU z := by
  induction z, le using Int.leInduction with
  | base => exact le_rfl
  | succ z le ih => exact (ih (by omega)).trans (mul_polyU_le_succ (by omega) high)

/-- The product is odd, so it rises over all reduced phases. -/
theorem mul_polyU_mono {y z : Int} (low : -16384 ≤ y) (le : y ≤ z) (high : z ≤ 16384) :
    y * polyU y ≤ z * polyU z := by
  have odd (w : Int) : -w * polyU (-w) = -(w * polyU w) := by rw [polyU_neg, neg_mul]
  have nonneg {w : Int} (h : 0 ≤ w) (h' : w ≤ 16384) : 0 ≤ w * polyU w := by
    have := mul_polyU_mono_of_nonneg le_rfl h h'
    rwa [zero_mul] at this
  have nonpos {w : Int} (h : w ≤ 0) (h' : -16384 ≤ w) : w * polyU w ≤ 0 := by
    have := nonneg (w := -w) (by omega) (by omega)
    rw [odd] at this
    omega
  rcases le_total 0 y with yPos | yNeg
  · exact mul_polyU_mono_of_nonneg yPos le high
  · rcases le_total 0 z with zPos | zNeg
    · exact (nonpos yNeg low).trans (nonneg zPos high)
    · have mirrored := mul_polyU_mono_of_nonneg (by omega : 0 ≤ -z) (neg_le_neg le) (by omega)
      rw [odd, odd] at mirrored
      omega

/-- quicksin rises with the reduced phase. -/
theorem quicksin_mono_of_reduce_le {x y : Half} (h : reduce x.toNat ≤ reduce y.toNat) :
    quicksin x ≤ quicksin y := by
  have product := mul_polyU_mono (reduce_range x).1 h (reduce_range y).2
  have parabola : poly (reduce x.toNat) ≤ poly (reduce y.toNat) :=
    Int.ediv_le_ediv (by decide) product
  exact min_le_min_left _ (max_le_max_left _ parabola)

end Sys2Proof.Machine
end

section
/-! The statements of 41_sine.md section 3. -/

namespace Sys2Proof.Machine

/-- Settles O30: each symmetry is one of the quadrant reduction. -/
theorem quicksinSymmetries : Obligations.QuicksinSymmetries := by
  refine ⟨fun x => quicksin_add_quicksin_of_reduce_neg (reduce_add_half x),
    fun x => quicksin_add_quicksin_of_reduce_neg (reduce_neg x), fun x first => ?_⟩
  exact congrArg (fun y => clamp (poly y) (-128) 127) (reduce_mirror first)

/-- Settles O31: quicksin rises with the reduced phase, which rises, falls and rises. -/
theorem quicksinRisesAndFalls : Obligations.QuicksinRisesAndFalls := by
  intro x y le
  refine ⟨fun high => ?_, fun low high => ?_, fun low => ?_⟩ <;>
    apply quicksin_mono_of_reduce_le <;> rw [reduce_toNat, reduce_toNat]
  · split_ifs <;> omega
  · split_ifs <;> omega
  · split_ifs <;> omega

end Sys2Proof.Machine
end

section
/-! SUPPORT. Silence and silent carriers in a TICK (43_voice.md R148, R149; 70_reset_and_hazards.md
section 1). -/

namespace Sys2Proof.Machine

/-! ### The Silence waveform -/

theorem byteRange_zero : byteRange 0 := silence_range

theorem rawOf_of_silence {x : Voice} (h : 7 ≤ x.wave.toNat) (nz : Int) : rawOf x nz = 0 := by
  simp only [rawOf, wave, decodeWave_silence h, silence]

/-- Bit-crush gives Silence the mask itself, below depth 8 (R149). -/
theorem crush_silence {k : BitVec 4} (below : k.toNat ≤ 7) : crush 0 k = 2 ^ k.toNat - 1 := by
  rw [crush_eq_forceLow byteRange_zero below, forceLow]
  simp

theorem scaledOf_of_silence {x : Voice} (h : 7 ≤ x.wave.toNat) (nz : Int) :
    scaledOf x nz = crush 0 x.crush * x.vol.toNat := by
  rw [scaledOf, crushedOf, rawOf_of_silence h]
  rfl

/-! ### TICKs with silent carriers -/

@[simp] theorem tickResult_vol (s : State) (v : Fin 8) :
    ((tickResult s).voice v).vol = (s.voice v).vol := by
  rw [tickResult_voice]
  rfl

@[simp] theorem tickResult_freq (s : State) (v : Fin 8) :
    ((tickResult s).voice v).freq = (s.voice v).freq := by
  rw [tickResult_voice]
  rfl

/-- A voice with volume 0 is silent, whatever its waveform and its depth (R150). -/
theorem tickScaled_get_of_vol_zero {s : State} {v : Fin 8} (h : (s.voice v).vol = 0) :
    (tickScaled s).get v = 0 := by
  rw [tickScaled_get, scaledOf, h]
  exact mul_zero _

/-- The mix of silent carriers is mid-scale (R175). -/
theorem mixSample_of_silent_carriers {s : State}
    (silent : ∀ c : Fin 8, c.val < 4 → (s.voice c).vol = 0) : mixSample (tickScaled s) = 0x8080 := by
  have zero : mixSample (tickScaled s) = mixSample (Eight.fill 0) := mixSample_congr fun c h => by
    rw [tickScaled_get_of_vol_zero (silent c h), Eight.get_fill]
  rw [zero]
  decide

/-- With silent modulators and an increment of 0 a phase stays (R151, R171). -/
theorem tickResult_phase_of_still {s : State} {v : Fin 8}
    (silent : ∀ m : Fin 8, 4 ≤ m.val → (s.voice m).vol = 0) (slow : (s.voice v).freq.toNat < 4) :
    ((tickResult s).voice v).phase = (s.voice v).phase := by
  have unmodulated : modulation (tickScaled s) v = 0 := by
    by_cases carrier : v.val < 4
    · rw [modulation_of_carrier _ carrier, tickScaled_get_of_vol_zero (silent _ (by simp))]
      rfl
    · exact modulation_of_modulator _ (by omega)
  have still : (s.voice v).increment = 0 := by
    simp only [Voice.increment, shr_freqShift, unsigned]
    omega
  rw [tickResult_phase, unmodulated, still, add_zero, Voice.movePhase_zero]

theorem iterate_tickResult_out_of_silent_carriers (k : Nat) {s : State}
    (silent : ∀ c : Fin 8, c.val < 4 → (s.voice c).vol = 0) :
    (tickResult^[k] s).out = s.out ++ List.replicate k 0x8080 := by
  induction k generalizing s with
  | zero => exact (List.append_nil _).symm
  | succ k ih =>
    have silent' : ∀ c : Fin 8, c.val < 4 → ((tickResult s).voice c).vol = 0 := by
      simpa only [tickResult_vol] using silent
    rw [Function.iterate_succ_apply, ih silent', tickResult_out, mixSample_of_silent_carriers silent,
      List.append_assoc, List.replicate_succ, List.singleton_append]

theorem iterate_tickResult_phase_of_still (k : Nat) {s : State}
    (silent : ∀ m : Fin 8, 4 ≤ m.val → (s.voice m).vol = 0)
    (slow : ∀ v : Fin 8, (s.voice v).freq.toNat < 4) (v : Fin 8) :
    ((tickResult^[k] s).voice v).phase = (s.voice v).phase := by
  induction k generalizing s with
  | zero => rfl
  | succ k ih =>
    rw [Function.iterate_succ_apply, ih, tickResult_phase_of_still silent (slow v)]
    · simpa only [tickResult_vol] using silent
    · simpa only [tickResult_freq] using slow

end Sys2Proof.Machine
end

section
/-! The statements about Silence and silent carriers. -/

namespace Sys2Proof.Machine

/-- Settles O40: the raw value is 0, and what is heard of it is the mask of its crush depth. -/
theorem silenceRawValue : Obligations.SilenceRawValue := by
  refine ⟨fun s c v l stage => ?_, fun s => ⟨_, exec_tick s, fun v tag => ?_⟩⟩
  · rw [exec_of_setRaw rfl stage, silence]
  have latch : ((tickResult s).voice v).scaled.toInt =
      crush 0 (s.voice v).crush * (s.voice v).vol.toNat := by
    rw [tickResult_scaled, tickScaled_get, scaledOf_of_silence tag]
  refine ⟨fun uncrushed => ?_, fun _ below => ?_, fun deep => ?_⟩
  · apply BitVec.eq_of_toInt_eq
    rw [latch, uncrushed, crush_zero, zero_mul]
    rfl
  · rw [latch, crush_silence below]
  · rw [latch, crush_deep byteRange_zero deep, neg_one_mul]

/-- Settles O48: by induction on the TICKs, each of which keeps the volumes and frequencies. -/
theorem silentCarriersGiveMidScale : Obligations.SilentCarriersGiveMidScale :=
  fun k s silent => ⟨_, execAll_replicate_tick k s,
    iterate_tickResult_out_of_silent_carriers k silent, iterate_tickResult_seed k s,
    iterate_tickResult_phase_of_still k⟩

end Sys2Proof.Machine
end

section
/-! SUPPORT. The assembler statement by statement (30_encoding.md R82, R83): the number each operand names,
the word of each command, and the commands of each pseudo-instruction. -/

namespace Sys2Proof.Machine

/-! ### Operands as numbers -/

/-- The address a register name stands for, as a number, or none where it is refused (R82). -/
def AsmReg.number : AsmReg → Option Nat
  | .voice n f => if n < 8 then some (8 * n + f.offset) else none
  | .seedLo => some 0x40
  | .seedHi => some 0x41
  | .sample => some 0x42
  | .raw a => if a < 128 then some a else none

/-- The data word an immediate stands for, as a number, or none where it is refused (R82). -/
def AsmImm.number : AsmImm → Option Nat
  | .lit v => if -32768 ≤ v ∧ v ≤ 65535 then some (v % 65536).toNat else none
  | .tag t => some t.code

theorem FieldName.offset_lt (f : FieldName) : f.offset < 8 := by
  cases f <;> decide

theorem AsmReg.number_lt {r : AsmReg} {a : Nat} (h : r.number = some a) : a < 128 := by
  cases r with
  | voice n f =>
    have := f.offset_lt
    simp only [AsmReg.number, Option.ite_none_right_eq_some, Option.some.injEq] at h
    omega
  | seedLo | seedHi | sample => cases h; decide
  | raw n =>
    simp only [AsmReg.number, Option.ite_none_right_eq_some, Option.some.injEq] at h
    omega

theorem AsmImm.number_lt {i : AsmImm} {d : Nat} (h : i.number = some d) : d < 65536 := by
  cases i with
  | lit v =>
    simp only [AsmImm.number, Option.ite_none_right_eq_some, Option.some.injEq] at h
    omega
  | tag t => cases t <;> cases h <;> decide

theorem u16_eq_ofNat (v : Int) : u16 v = BitVec.ofNat 16 (v % 65536).toNat := by
  rw [← toNat_u16, BitVec.ofNat_toNat, BitVec.setWidth_eq]

theorem AsmReg.addr_eq (r : AsmReg) : r.addr = r.number.map (BitVec.ofNat 7) := by
  cases r with
  | voice n f => by_cases h : n < 8 <;> simp [AsmReg.addr, AsmReg.number, h]
  | seedLo | seedHi | sample => rfl
  | raw a => by_cases h : a < 128 <;> simp [AsmReg.addr, AsmReg.number, h]

theorem AsmImm.data_eq (i : AsmImm) : i.data = i.number.map (BitVec.ofNat 16) := by
  cases i with
  | lit v =>
    by_cases h : -32768 ≤ v ∧ v ≤ 65535
    · simp only [AsmImm.data, AsmImm.number, if_pos h, u16_eq_ofNat, Option.map_some]
    · simp only [AsmImm.data, AsmImm.number, if_neg h, Option.map_none]
  | tag t => rfl

/-! ### Canonical words -/

theorem toNat_append_eq {m n : Nat} (x : BitVec m) (y : BitVec n) :
    (x ++ y).toNat = x.toNat * 2 ^ n + y.toNat := by
  rw [BitVec.toNat_append, ← Nat.shiftLeft_add_eq_or_of_lt y.isLt, Nat.shiftLeft_eq]

/-- A canonical word is the sum of its fields, each at its place (R70, R76). -/
theorem commandWord_eq_ofNat (op : BitVec 2) {a d : Nat} (ha : a < 128) (hd : d < 65536) :
    commandWord op 0 (BitVec.ofNat 7 a) (BitVec.ofNat 16 d) =
      BitVec.ofNat 32 (op.toNat * 0x40000000 + a * 65536 + d) := by
  have := op.isLt
  have rsv : (0 : BitVec 7).toNat = 0 := rfl
  apply BitVec.eq_of_toNat_eq
  rw [commandWord, toNat_append_eq, toNat_append_eq, toNat_append_eq, rsv]
  simp only [BitVec.toNat_ofNat]
  omega

/-- The word of an instruction is a command word only if the instruction is a command. -/
theorem format_encode (i : Instr) : (encode i).format = i.format := by
  cases i <;> rfl

/-- A word that `encode` gives is the one it gives for what the word decodes to (R76). -/
theorem encode_decodeCommand_of_encode {i : Instr} {w : Command} (h : encode i = .cmd32 w) :
    encode (decodeCommand w) = .cmd32 w := by
  have format : i.format = .cmd32 := by rw [← format_encode, h]; rfl
  obtain ⟨w', encoded, -, decoded⟩ := encode_command format
  cases h.symm.trans encoded
  rw [decoded, h]

theorem encode_of_instrWord {i : Instr} {w : Command} (h : instrWord i = some w) :
    encode i = .cmd32 w := by
  unfold instrWord at h
  split at h
  case h_1 w' e =>
    cases h
    exact e
  case h_2 => cases h

/-- Every word an assembled statement gives is canonical (R76). -/
theorem canonical_of_mem_words {st : AsmStmt} {ws : List Command} (h : st.words = some ws)
    {w : Command} (mem : w ∈ ws) : encode (decodeCommand w) = .cmd32 w := by
  obtain ⟨is, -, rfl⟩ := Option.map_eq_some_iff.1 h
  obtain ⟨i, -, word⟩ := List.mem_filterMap.1 mem
  exact encode_decodeCommand_of_encode (encode_of_instrWord word)

/-! ### The words of RD and WR -/

theorem instrsOf_cons {st : AsmStmt} {i : Instr} {rest : List AsmStmt} {is : List Instr}
    (head : st.instr = some i) (tail : instrsOf rest = some is) :
    instrsOf (st :: rest) = some (i :: is) := by
  simp only [instrsOf, head, tail]

/-- A command statement has the one word of its instruction, if it has one. -/
theorem words_of_expand_self {st : AsmStmt} (h : st.expand = some [st]) :
    st.words = st.instr.map fun i => [i].filterMap instrWord := by
  rw [AsmStmt.words, AsmStmt.instrs, h, Option.bind_some]
  cases instr : st.instr with
  | none => simp only [instrsOf, instr, Option.map_none]
  | some i => rw [instrsOf_cons instr rfl, Option.map_some, Option.map_some]

theorem words_rd (r : AsmReg) : (AsmStmt.rd r).words =
    r.number.map fun a => [BitVec.ofNat 32 (0x40000000 + a * 65536)] := by
  have instr : (AsmStmt.rd r).instr = r.number.map fun a => .rd (BitVec.ofNat 7 a) := by
    rw [AsmStmt.instr, AsmReg.addr_eq, Option.map_map]
    rfl
  rw [words_of_expand_self rfl, instr]
  cases number : r.number with
  | none => rfl
  | some a =>
    have word : instrWord (.rd (BitVec.ofNat 7 a)) =
        some (commandWord 1 0 (BitVec.ofNat 7 a) (BitVec.ofNat 16 0)) := rfl
    rw [commandWord_eq_ofNat 1 (AsmReg.number_lt number) (by decide)] at word
    simp [word]

/-- The instruction of a WR statement, where both operands are in range (R82). -/
theorem instr_wr (r : AsmReg) (i : AsmImm) : (AsmStmt.wr r i).instr =
    match r.addr, i.data with
    | some a, some d => some (.wr a d)
    | _, _ => none := rfl

theorem words_wr_of_number {r : AsmReg} {i : AsmImm} {a d : Nat} (reg : r.number = some a)
    (imm : i.number = some d) :
    (AsmStmt.wr r i).words = some [BitVec.ofNat 32 (0x80000000 + a * 65536 + d)] := by
  have word : instrWord (.wr (BitVec.ofNat 7 a) (BitVec.ofNat 16 d)) =
      some (commandWord 2 0 (BitVec.ofNat 7 a) (BitVec.ofNat 16 d)) := rfl
  rw [commandWord_eq_ofNat 2 (AsmReg.number_lt reg) (AsmImm.number_lt imm)] at word
  rw [words_of_expand_self rfl, instr_wr, AsmReg.addr_eq, AsmImm.data_eq, reg, imm]
  simp [word]

theorem words_wr_of_refused {r : AsmReg} {i : AsmImm} (h : r.number = none ∨ i.number = none) :
    (AsmStmt.wr r i).words = none := by
  rw [words_of_expand_self rfl, instr_wr, AsmReg.addr_eq, AsmImm.data_eq]
  rcases h with h | h <;> simp [h]

/-! ### The pseudo-instructions -/

/-- VOICE assembles to the words of its five WRs, or is refused with one of them (R83). -/
theorem words_voice (n : Nat) (w f d vol k : AsmImm) : (AsmStmt.voice n w f d vol k).words =
    match (AsmStmt.wr (.voice n .wave) w).words, (AsmStmt.wr (.voice n .freq) f).words,
      (AsmStmt.wr (.voice n .duty) d).words, (AsmStmt.wr (.voice n .crush) k).words,
      (AsmStmt.wr (.voice n .vol) vol).words with
    | some w0, some w1, some w2, some w3, some w4 => some (w0 ++ w1 ++ w2 ++ w3 ++ w4)
    | _, _, _, _, _ => none := by
  simp only [AsmStmt.words, AsmStmt.instrs, AsmStmt.expand, Option.bind_some, instrsOf]
  cases (AsmStmt.wr (.voice n .wave) w).instr with
  | none => rfl
  | some i0 =>
  cases (AsmStmt.wr (.voice n .freq) f).instr with
  | none => rfl
  | some i1 =>
  cases (AsmStmt.wr (.voice n .duty) d).instr with
  | none => rfl
  | some i2 =>
  cases (AsmStmt.wr (.voice n .crush) k).instr with
  | none => rfl
  | some i3 =>
  cases (AsmStmt.wr (.voice n .vol) vol).instr with
  | none => rfl
  | some i4 => simp only [Option.map_some, ← List.filterMap_append, List.cons_append, List.nil_append]

theorem words_mute (n : Nat) :
    (AsmStmt.mute n).words = (AsmStmt.wr (.voice n .vol) (.lit 0)).words := rfl

theorem words_wr_voice_of_ge {n : Nat} (h : 8 ≤ n) (f : FieldName) (i : AsmImm) :
    (AsmStmt.wr (.voice n f) i).words = none :=
  words_wr_of_refused (.inl (if_neg (by omega)))

/-- The slot of a field in its voice block (R36). -/
def FieldName.slot (f : FieldName) : Fin 8 := ⟨f.offset, f.offset_lt⟩

/-- The value of a field of at most 16 bits is an immediate in range (R82). -/
theorem data_lit_toNat {w : Nat} (b : BitVec w) (h : w ≤ 16) :
    (AsmImm.lit b.toNat).data = some (zext16 b) := by
  have small : b.toNat < 65536 := b.isLt.trans_le (Nat.pow_le_pow_right (by decide) h)
  have value : u16 b.toNat = zext16 b := BitVec.ofNat_toNat 16 b
  rw [AsmImm.data, if_pos (by omega), value]

theorem zext16_half (h : Half) : zext16 h = h := BitVec.setWidth_eq h

/-- A WR of a voice field is a write to the field's slot (R36, R82). -/
theorem instr_wr_voice (n : Fin 8) (f : FieldName) {w : Nat} (b : BitVec w) (h : w ≤ 16) :
    (AsmStmt.wr (.voice n.val f) (.lit b.toNat)).instr =
      some (.wr (slotAddr n f.slot) (zext16 b)) := by
  have addr : (AsmReg.voice n.val f).addr = some (slotAddr n f.slot) := if_pos n.isLt
  rw [instr_wr, addr, data_lit_toNat b h]

theorem instrs_voice (n : Fin 8) (w vol : BitVec 8) (f d : Half) (k : BitVec 4) :
    (AsmStmt.voice n.val (.lit w.toNat) (.lit f.toNat) (.lit d.toNat) (.lit vol.toNat)
      (.lit k.toNat)).instrs =
      some ([(0, zext16 w), (2, zext16 f), (3, zext16 d), (5, zext16 k), (4, zext16 vol)].map
        fun p => .wr (slotAddr n p.1) p.2) :=
  instrsOf_cons (instr_wr_voice n .wave w (by decide)) <|
  instrsOf_cons (instr_wr_voice n .freq f le_rfl) <|
  instrsOf_cons (instr_wr_voice n .duty d le_rfl) <|
  instrsOf_cons (instr_wr_voice n .crush k (by decide)) <|
  instrsOf_cons (instr_wr_voice n .vol vol (by decide)) rfl

theorem instrs_mute (n : Fin 8) :
    (AsmStmt.mute n.val).instrs = some ([(4, 0)].map fun p => .wr (slotAddr n p.1) p.2) :=
  instrsOf_cons (instr_wr_voice n .vol (0 : BitVec 8) (by decide)) rfl

/-- SEED writes the high half and then the low half (R83). -/
theorem instrs_seed (x : Seed) : (AsmStmt.seed x.toNat).instrs =
    some [.wr 0x41 (seedHigh x), .wr 0x40 (seedLow x)] := by
  have ok : seedLiteralOk x.toNat = true := by
    have := x.isLt
    simp only [seedLiteralOk, Bool.and_eq_true, decide_eq_true_eq]
    omega
  have high : (x.toNat : Int) % 2 ^ 32 / 2 ^ 16 = (seedHigh x).toNat := by
    have := x.isLt
    rw [toNat_seedHigh]
    omega
  have low : (x.toNat : Int) % 2 ^ 16 = (seedLow x).toNat := by
    rw [toNat_seedLow]
    omega
  rw [AsmStmt.instrs, AsmStmt.expand, if_pos ok, high, low, Option.bind_some]
  have first : (AsmStmt.wr .seedHi (.lit (seedHigh x).toNat)).instr =
      some (.wr 0x41 (seedHigh x)) := by
    rw [instr_wr, data_lit_toNat _ le_rfl, zext16_half]
    rfl
  have second : (AsmStmt.wr .seedLo (.lit (seedLow x).toNat)).instr =
      some (.wr 0x40 (seedLow x)) := by
    rw [instr_wr, data_lit_toNat _ le_rfl, zext16_half]
    rfl
  exact instrsOf_cons first (instrsOf_cons second rfl)

theorem instrsOf_replicate_tick (k : Nat) :
    instrsOf (List.replicate k .tick) = some (List.replicate k .tick) := by
  induction k with
  | zero => rfl
  | succ k ih =>
    rw [List.replicate_succ, List.replicate_succ]
    exact instrsOf_cons rfl ih

/-! ### Writing several slots of one voice -/

/-- A voice after writes to several of its slots, in order. -/
def Voice.writeSlots (x : Voice) (l : List (Fin 8 × Half)) : Voice :=
  l.foldl (fun y p => y.writeSlot p.1 p.2) x

/-- The five writes of VOICE set the five fields: each value fits its field (R54, R83). -/
theorem Voice.writeSlots_of_voice (x : Voice) (w vol : BitVec 8) (f d : Half) (k : BitVec 4) :
    x.writeSlots
        [(0, zext16 w), (2, zext16 f), (3, zext16 d), (5, zext16 k), (4, zext16 vol)] =
      { x with wave := w, freq := f, duty := d, vol := vol, crush := k } := by
  have byte (b : BitVec 8) : (zext16 b).extractLsb' 0 8 = b := extractLsb'_zext16 b (by decide)
  have nibble : (zext16 k).extractLsb' 0 4 = k := extractLsb'_zext16 k (by decide)
  simp only [Voice.writeSlots, List.foldl_cons, List.foldl_nil, Voice.writeSlot, byte, nibble,
    zext16_half]

/-- Writes to slots of one voice change that voice alone, and add responses (R54, R78). -/
theorem execAll_wr_slots (n : Fin 8) (l : List (Fin 8 × Half)) (s : State) : ∃ t,
    execAll (l.map fun p => .wr (slotAddr n p.1) p.2) s = .next t ∧
      t = { s.setVoice n ((s.voice n).writeSlots l) with out := t.out } := by
  induction l generalizing s with
  | nil => exact ⟨s, rfl, (State.setVoice_voice_same s n).symm⟩
  | cons p l ih =>
    obtain ⟨t, run, frame⟩ := ih ((s.setVoice n ((s.voice n).writeSlot p.1 p.2)).respond 0x0000)
    refine ⟨t, ?_, ?_⟩
    · rw [List.map_cons, execAll_cons (exec_wr_slotAddr s n p.1 p.2), run]
    · rw [frame]
      simp [State.setVoice, State.respond, State.voice, Voice.writeSlots]

end Sys2Proof.Machine
end

section
/-! The statements of 30_encoding.md section 7 about the assembler. -/

namespace Sys2Proof.Machine

/-- Settles O22: an operand is in range exactly where it has a number, and the fields of a word add up. -/
theorem assemblerEmitsCanonicalWords : Obligations.AssemblerEmitsCanonicalWords := by
  unfold Obligations.AssemblerEmitsCanonicalWords
  intro address value
  refine ⟨fun st ws h w => canonical_of_mem_words h, rfl, rfl, fun r => words_rd r, fun r i => ?_,
    rfl, rfl, words_voice, words_mute, fun n large => ⟨words_wr_voice_of_ge large _ _, ?_⟩⟩
  · have reg : address r = r.number := rfl
    have imm : value i = i.number := rfl
    rw [reg, imm]
    cases number : r.number with
    | none => exact words_wr_of_refused (.inl number)
    | some a =>
      cases number' : i.number with
      | none => exact words_wr_of_refused (.inr number')
      | some d => exact words_wr_of_number number number'
  · intro w f d vol k
    rw [words_voice, words_wr_voice_of_ge large]

/-- Settles O23: SEED and VOICE write what they name, in range by the width of each field. -/
theorem pseudoInstructionsDoWhatTheyName : Obligations.PseudoInstructionsDoWhatTheyName := by
  refine ⟨fun s x => ?_, fun s n w vol f d k => ?_, fun s n => ?_, fun k positive => ?_, rfl⟩
  · exact ⟨_, _, instrs_seed x, execAll_wr_seed_halves s x, rfl⟩
  · obtain ⟨t, run, frame⟩ := execAll_wr_slots n
      [(0, zext16 w), (2, zext16 f), (3, zext16 d), (5, zext16 k), (4, zext16 vol)] s
    rw [Voice.writeSlots_of_voice] at frame
    exact ⟨_, t, instrs_voice n w vol f d k, run, frame⟩
  · obtain ⟨t, run, frame⟩ := execAll_wr_slots n [(4, 0)] s
    exact ⟨_, t, instrs_mute n, run, frame⟩
  · rw [AsmStmt.instrs, AsmStmt.expand, if_pos positive]
    exact instrsOf_replicate_tick k

end Sys2Proof.Machine
end
